-- ==== Sys2Proof/Word.lean ====
section
/-! DEFINITION. The words of the machine: bytes, operand values, opcode indices and jump targets. -/

namespace Sys2Proof

/-- One byte of program memory, and one operand-type byte (30_encoding.md R72). -/
abbrev Byte := BitVec 8

/-- A COMPACT operand value, W = 16 (00_scope.md R6). -/
abbrev Half := BitVec 16

/-- An EXTENDED operand value, W = 32 (00_scope.md R6). -/
abbrev Wide := BitVec 32

/-- An opcode index. IDX_W = 8 + EXT_BITS is at most 11 (00_scope.md R7); a narrower index is held
zero-extended (log entry 7). -/
abbrev OpIndex := BitVec 11

/-- The target of a jump request, JT_W = 32 bits (00_scope.md R11). -/
abbrev JumpTarget := BitVec 32

end Sys2Proof
end

