-- ==== Sys2Proof/Machine/Calls.lean ====
section
/-! DEFINITION. The instruction record and what passes between the block and the external routines it
calls: handler signals, requests, and the replies of handlers and of the watchdog hook. -/

namespace Sys2Proof

/-- The name of a handler. The spec makes it an opaque parameter type that the block never inspects
(00_scope.md R9); the model names handlers by numbers (log entry 8). -/
abbrev HandlerId := Nat

/-- The name of a watchdog hook, opaque to the block (00_scope.md R13; log entry 8). -/
abbrev HookId := Nat

/-- The instruction record REC, field by field (10_state.md R32). A value field is W bits wide; it is held
in 32 bits, zero-extended in a COMPACT build (log entry 7). -/
structure InstrRecord where
  opcodeIndex : OpIndex
  dstType : Byte
  dstValue : Wide
  srcType : Byte
  srcValue : Wide
  extType : Byte
  extValue : Wide
  deriving DecidableEq, Repr, Inhabited

/-- ZERO_REC, the record with every field zero (00_scope.md R16). -/
def InstrRecord.zero : InstrRecord := ⟨0, 0, 0, 0, 0, 0, 0⟩

/-- The handler return signal (10_state.md R38). -/
inductive Resp where
  | ok
  | error
  | endRun
  | reset
  deriving DecidableEq, Repr, Inhabited

/-- What an external routine asked of the block during one call (10_state.md R37): the targets of its
`requestJump` calls in order, whether it called `requestStop`, the last value it gave `setWatchdog`, and
the program buffer's contents at its return. `prog` lists the bytes the buffer then holds; an offset of the
buffer that it does not list holds the byte it held before the call (log entry 5). -/
structure Requests where
  jumps : List JumpTarget
  stop : Bool
  hook : Option (Option HookId)
  prog : List Host.Cell
  deriving DecidableEq, Repr, Inhabited

/-- A call that asked for nothing and wrote nothing. -/
def Requests.nothing : Requests := ⟨[], false, none, []⟩

/-- The outcome of a handler call that returned (10_state.md R37). -/
structure HandlerOutcome where
  resp : Resp
  reqs : Requests
  deriving DecidableEq, Repr, Inhabited

/-- The outcome of a hook call that returned: its verdict and its requests (10_state.md R37, 42_sequencer.md
R172). -/
structure HookOutcome where
  ok : Bool
  reqs : Requests
  deriving DecidableEq, Repr, Inhabited

/-- How a handler call ends: it returns an outcome, it breaks the contract by calling `run` (42_sequencer.md
R160, R170), or it never returns (70_reset_and_hazards.md R256). -/
inductive HandlerReply where
  | returned (o : HandlerOutcome)
  | calledRun
  | neverReturns
  deriving DecidableEq, Repr, Inhabited

/-- How a hook call ends, as `HandlerReply` for the hook's outcome (42_sequencer.md R160, R172, R256). -/
inductive HookReply where
  | returned (o : HookOutcome)
  | calledRun
  | neverReturns
  deriving DecidableEq, Repr, Inhabited

end Sys2Proof
end

