-- ==== Sys2Proof/Config.lean ====
section
/-! DEFINITION. The build parameters of the block and the free values the spec leaves open. -/

namespace Sys2Proof

/-- MODE, the operand-width option (00_scope.md R6). -/
inductive Mode where
  | compact
  | extended
  deriving DecidableEq, Repr, Inhabited

/-- The length-class tag (30_encoding.md R70). -/
inductive LenClass where
  | noOperand
  | narrow
  | single
  | dual
  | dualExt
  deriving DecidableEq, Repr, Inhabited

/-- WDT_POLICY: what a watchdog abort does to the error record (00_scope.md R12). -/
inductive WdtPolicy where
  | preserve
  | normalize
  deriving DecidableEq, Repr, Inhabited

/-- A populated slot of the dispatch table: a handler and a class tag, stored as a 3-bit code
(30_encoding.md R70, 40_dispatch.md R100). -/
structure Slot where
  handler : HandlerId
  code : BitVec 3
  deriving DecidableEq, Repr, Inhabited

/-- The build parameters (00_scope.md R6 to R12). `table` lists the populated slots of TABLE by index; an
index it does not list is an empty slot, and of two entries for one index the first counts (log entry 16). -/
structure Config where
  mode : Mode
  extBits : Fin 4
  varlen : Bool
  fixedLen : Nat
  table : List (Nat × Slot)
  pcW : Nat
  wdtPolicy : WdtPolicy
  deriving DecidableEq, Repr, Inhabited

/-- The build that State.reset holds: PC_W = 16, FIXED_LEN = 8 and PRESERVE are the spec's defaults
(00_scope.md R10, 41_decoder.md R131, 92_eei_decisions.md D14); the rest is a DESIGN CHOICE (log entry 2),
the empty TABLE because the spec fixes no opcode number (30_encoding.md R80). -/
def Config.reference : Config :=
  { mode := .compact, extBits := 0, varlen := true, fixedLen := 8, table := [], pcW := 16,
    wdtPolicy := .preserve }

/-- The interfaces of the block (10_state.md R41). -/
inductive Interface where
  | run
  | lasterr
  | setwdt
  | stopreq
  | jumpreq
  | fetch
  | table
  | invoke
  | wdtcall
  deriving DecidableEq, Repr, Inhabited

/-- HOST_BUS_MAP, the bus address of each interface: an open parameter that no rule reads (10_state.md R41;
log entry 19). -/
opaque Config.hostBusMap : Interface → Nat

/-- FREE VALUE: the reply of the n-th handler call, to handler `h` on record `r`, where none was chosen
beforehand (10_state.md R37, 93_implementation_defined.md I-3; log entry 4). -/
opaque Config.freeHandlerReply : Nat → HandlerId → InstrRecord → HandlerReply

/-- FREE VALUE: the reply of the n-th hook call, to hook `hk`, where none was chosen beforehand (10_state.md
R37, 93_implementation_defined.md I-4; log entry 4). -/
opaque Config.freeHookReply : Nat → HookId → HookReply

/-- FREE VALUE: the 1-bit RESULT the host reads while it has no meaning (10_state.md R28, R43; log entry 19). -/
opaque Config.freeResult : Nat → BitVec 1

/-- FREE VALUE: the 3-bit ENG_STATE the host reads in the Faulted state (10_state.md R43; log entry 19). -/
opaque Config.freeEngState : Nat → BitVec 3

/-- FREE VALUE: the error kind code the host reads before the first run and in the Faulted state
(10_state.md R40, R43, R44; log entry 19). -/
opaque Config.freeErrKind : Nat → BitVec 3

/-- FREE VALUE: the error address the host reads there (10_state.md R40, R43, R44; log entry 19). -/
opaque Config.freeErrAddr : Nat → Nat

/-- FREE VALUE: the error snapshot the host reads there (10_state.md R40, R43, R44; log entry 19). -/
opaque Config.freeErrSnap : Nat → InstrRecord

end Sys2Proof
end

