-- ==== Sys2Proof/Syntax.lean ====
section
/-! DEFINITION. The instructions: one constructor per row of spec/opcode_table.json, with every field of the
row's encoding string (30_encoding.md R72, R86) and nothing else. -/

namespace Sys2Proof

/-- The bytes after the opcode byte, by layout (30_encoding.md R72): a raw byte for NARROW, type and value
pairs for the wide classes, and the COMPACT padding byte (R75). -/
inductive Layout where
  | noOperand
  | narrow (raw : Byte)
  | single16 (t1 : Byte) (v1 : Half)
  | dual16 (t1 : Byte) (v1 : Half) (t2 : Byte) (v2 : Half) (pad : Byte)
  | single32 (t1 : Byte) (v1 : Wide)
  | dual32 (t1 : Byte) (v1 : Wide) (t2 : Byte) (v2 : Wide)
  | dualExt32 (t1 : Byte) (v1 : Wide) (t2 : Byte) (v2 : Wide) (t3 : Byte) (v3 : Wide)
  deriving DecidableEq, Repr

/-- One constructor per row of the opcode table. `op` is the base opcode byte (30_encoding.md R79). -/
inductive Instr where
  /-- CLASS_NONE, format C0 (41_decoder.md R133). -/
  | classNoneC0 (op : Byte)
  /-- CLASS_NARROW, format C1 (R134). -/
  | classNarrowC1 (op : Byte) (raw : Byte)
  /-- CLASS_SINGLE, format C2 (R135). -/
  | classSingleC2 (op : Byte) (t1 : Byte) (v1 : Half)
  /-- CLASS_DUAL, format C3, with its padding byte (R136, R75). -/
  | classDualC3 (op : Byte) (t1 : Byte) (v1 : Half) (t2 : Byte) (v2 : Half) (pad : Byte)
  /-- CLASS_NONE, format X0 (R133). -/
  | classNoneX0 (op : Byte)
  /-- CLASS_NARROW, format X1 (R134). -/
  | classNarrowX1 (op : Byte) (raw : Byte)
  /-- CLASS_SINGLE, format X2 (R137). -/
  | classSingleX2 (op : Byte) (t1 : Byte) (v1 : Wide)
  /-- CLASS_DUAL, format X3 (R138). -/
  | classDualX3 (op : Byte) (t1 : Byte) (v1 : Wide) (t2 : Byte) (v2 : Wide)
  /-- CLASS_DUAL_EXT, format X4 (R139). -/
  | classDualExtX4 (op : Byte) (t1 : Byte) (v1 : Wide) (t2 : Byte) (v2 : Wide) (t3 : Byte) (v3 : Wide)
  /-- UNDEFINED: bytes for which length resolution finds no class (30_encoding.md R82, 60_exceptions.md
  R218). It holds the bytes at the PC, at most 16 (log entry 14). -/
  | undefinedOpcode (bytes : List Byte)
  /-- FIXED_LENGTH: an instruction of a build with VARLEN = false, in the layout of FIXED_CLASS
  (30_encoding.md R85, 40_dispatch.md R105). -/
  | fixedLength (op : Byte) (body : Layout)
  deriving DecidableEq, Repr

/-- A format instruction's opcode byte and layout; UNDEFINED has none. -/
def Instr.format : Instr → Option (Byte × Layout)
  | .classNoneC0 op => some (op, .noOperand)
  | .classNarrowC1 op raw => some (op, .narrow raw)
  | .classSingleC2 op t1 v1 => some (op, .single16 t1 v1)
  | .classDualC3 op t1 v1 t2 v2 pad => some (op, .dual16 t1 v1 t2 v2 pad)
  | .classNoneX0 op => some (op, .noOperand)
  | .classNarrowX1 op raw => some (op, .narrow raw)
  | .classSingleX2 op t1 v1 => some (op, .single32 t1 v1)
  | .classDualX3 op t1 v1 t2 v2 => some (op, .dual32 t1 v1 t2 v2)
  | .classDualExtX4 op t1 v1 t2 v2 t3 v3 => some (op, .dualExt32 t1 v1 t2 v2 t3 v3)
  | .undefinedOpcode _ => none
  | .fixedLength op body => some (op, body)

end Sys2Proof
end

