-- ==== Sys2Proof/Machine/Resolve.lean ====
section
/-! DEFINITION. The dispatch table, opcode-space folding, length resolution and the configuration check
(30_encoding.md R70 to R74, 40_dispatch.md R100 to R107, 41_decoder.md R130, R131). -/

namespace Sys2Proof

/-- The 3-bit code of a class tag (30_encoding.md R70). -/
def LenClass.code : LenClass → BitVec 3
  | .noOperand => 0
  | .narrow => 1
  | .single => 2
  | .dual => 3
  | .dualExt => 4

/-- The class tag of a 3-bit code; codes 5 to 7 are not tags (30_encoding.md R70). -/
def LenClass.ofCode (code : BitVec 3) : Option LenClass :=
  if code = 0 then some .noOperand
  else if code = 1 then some .narrow
  else if code = 2 then some .single
  else if code = 3 then some .dual
  else if code = 4 then some .dualExt
  else none

/-- CLASSES(MODE), the candidate classes of a build (40_dispatch.md R104). -/
def classesOf : Mode → List LenClass
  | .compact => [.noOperand, .narrow, .single, .dual]
  | .extended => [.noOperand, .narrow, .single, .dual, .dualExt]

/-- LEN(MODE, cls); DUAL_EXT is not allowed in COMPACT (30_encoding.md R74). -/
def lenOf : Mode → LenClass → Option Nat
  | _, .noOperand => some 1
  | _, .narrow => some 2
  | .compact, .single => some 4
  | .compact, .dual => some 8
  | .compact, .dualExt => none
  | .extended, .single => some 6
  | .extended, .dual => some 11
  | .extended, .dualExt => some 16

/-- has(cls, k): whether the class has type byte TYPEk (30_encoding.md R73). -/
def LenClass.hasType : LenClass → Nat → Bool
  | .noOperand, _ => false
  | .narrow, _ => false
  | .single, k => k == 1
  | .dual, k => k == 1 || k == 2
  | .dualExt, k => k == 1 || k == 2 || k == 3

/-- TOFF(k): the offset of TYPEk, where the build's MODE has one (30_encoding.md R73). -/
def typeOffset : Mode → Nat → Option Nat
  | _, 1 => some 1
  | .compact, 2 => some 4
  | .extended, 2 => some 6
  | .extended, 3 => some 11
  | _, _ => none

/-- Table(idx): the populated slot at an index, if its code is a tag (40_dispatch.md R101). -/
def tableLookup (table : List (Nat × Slot)) (idx : OpIndex) : Option (HandlerId × LenClass) :=
  match table.lookup idx.toNat with
  | none => none
  | some slot => (LenClass.ofCode slot.code).map fun c => (slot.handler, c)

/-- What TYPEk's high bit adds to the opcode index: bit 7 + k, when k ≤ EXT_BITS and the class has TYPEk
(40_dispatch.md R102). -/
def foldBit (extBits : Fin 4) (c : LenClass) (k : Nat) (high : Bool) : OpIndex :=
  if k ≤ extBits.val ∧ c.hasType k = true ∧ high = true then BitVec.twoPow 11 (7 + k) else 0

/-- The folded opcode index of base byte `op` for class `c`, with the high bits of the three type bytes:
the one index construction, shared by the length phase, the dispatch phase and the table check
(40_dispatch.md R102, R106, R107). -/
def foldIndex (extBits : Fin 4) (c : LenClass) (op : Byte) (h1 h2 h3 : Bool) : OpIndex :=
  op.setWidth 11 ||| foldBit extBits c 1 h1 ||| foldBit extBits c 2 h2 ||| foldBit extBits c 3 h3

/-- CUR, the decode result of an execution cycle (10_state.md R34). -/
structure Cur where
  idx : OpIndex
  cls : LenClass
  len : Nat
  handler : HandlerId
  deriving DecidableEq, Repr

/-- The decode result for class `c` when `c` is consistent: the folded index selects an entry of that same
class (40_dispatch.md R104). -/
def entryFor (cfg : Config) (op : Byte) (h1 h2 h3 : Bool) (c : LenClass) : Option Cur :=
  match tableLookup cfg.table (foldIndex cfg.extBits c op h1 h2 h3), lenOf cfg.mode c with
  | some (h, c'), some len => if c' = c then some ⟨foldIndex cfg.extBits c op h1 h2 h3, c, len, h⟩ else none
  | _, _ => none

/-- tbit(k) on the bytes from the PC to the end of the program: the high bit of TYPEk, or 0 where that byte
lies past the end (40_dispatch.md R103). -/
def typeBit (mode : Mode) (window : List Byte) (k : Nat) : Bool :=
  match typeOffset mode k with
  | none => false
  | some off => match window[off]? with
    | none => false
    | some b => b.msb

/-- The consistent candidates at the PC, each with its decode result (40_dispatch.md R104). -/
def candidates (cfg : Config) (op : Byte) (window : List Byte) : List Cur :=
  (classesOf cfg.mode).filterMap
    (entryFor cfg op (typeBit cfg.mode window 1) (typeBit cfg.mode window 2) (typeBit cfg.mode window 3))

/-- FIXED_CLASS: the class of the MODE whose length is FIXED_LEN (30_encoding.md R85, 41_decoder.md R131). -/
def fixedClass (cfg : Config) : Option LenClass :=
  (classesOf cfg.mode).find? fun c => lenOf cfg.mode c == some cfg.fixedLen

/-- The decode result of a fixed-length build for FIXED_CLASS `c`; the entry's own tag is ignored
(40_dispatch.md R105). -/
def fixedEntry (cfg : Config) (op : Byte) (h1 h2 h3 : Bool) (c : LenClass) : Option Cur :=
  (tableLookup cfg.table (foldIndex cfg.extBits c op h1 h2 h3)).map fun e =>
    ⟨foldIndex cfg.extBits c op h1 h2 h3, c, cfg.fixedLen, e.1⟩

/-- What length resolution finds. The last two happen only in a build that the configuration check refuses
(40_dispatch.md R106, 41_decoder.md R131; log entry 12). -/
inductive Resolution where
  | undefined
  | resolved (c : Cur)
  | ambiguous
  | fixedLenIllegal
  deriving DecidableEq, Repr

/-- RESOLVE and RESOLVE_FIXED for opcode byte `op` at the head of `window` (40_dispatch.md R104, R105). -/
def resolve (cfg : Config) (op : Byte) (window : List Byte) : Resolution :=
  if cfg.varlen then
    match candidates cfg op window with
    | [] => .undefined
    | [c] => .resolved c
    | _ => .ambiguous
  else
    match fixedClass cfg with
    | none => .fixedLenIllegal
    | some c =>
      match fixedEntry cfg op (typeBit cfg.mode window 1) (typeBit cfg.mode window 2)
        (typeBit cfg.mode window 3) c with
      | none => .undefined
      | some cur => .resolved cur

/-- N_OPS, the number of slots of the table (00_scope.md R7). -/
def nOps (cfg : Config) : Nat := 256 * 2 ^ cfg.extBits.val

/-- TABLE_WF (1): in COMPACT, no populated entry has the tag DUAL_EXT (40_dispatch.md R106). -/
def noDualExtInCompact (cfg : Config) : Bool :=
  match cfg.mode with
  | .extended => true
  | .compact => (List.range (nOps cfg)).all fun i =>
      ((tableLookup cfg.table (BitVec.ofNat 11 i)).map Prod.snd) != some .dualExt

/-- Every vector of three type bits. -/
def bitVectors : List (Bool × Bool × Bool) :=
  [(false, false, false), (false, false, true), (false, true, false), (false, true, true),
   (true, false, false), (true, false, true), (true, true, false), (true, true, true)]

/-- TABLE_WF (2): for every base byte and every vector of type bits at most one class is consistent
(40_dispatch.md R106). -/
def atMostOneClass (cfg : Config) : Bool :=
  (List.range 256).all fun b => bitVectors.all fun t =>
    decide (((classesOf cfg.mode).filterMap
      (entryFor cfg (BitVec.ofNat 8 b) t.1 t.2.1 t.2.2)).length ≤ 1)

/-- TABLE_WF (40_dispatch.md R106). -/
def tableWf (cfg : Config) : Bool := noDualExtInCompact cfg && atMostOneClass cfg

/-- Why the model gives a configuration no meaning (60_exceptions.md R219). -/
inductive ConfigFlaw where
  | paramIllegal
  | fixedLenIllegal
  | tableIllFormed
  deriving DecidableEq, Repr

/-- The check of the build parameters: EXT_BITS = 3 with COMPACT (00_scope.md R7), a FIXED_LEN of no class
in a fixed-length build (41_decoder.md R131), a table that fails TABLE_WF (40_dispatch.md R106). -/
def configFlaw (cfg : Config) : Option ConfigFlaw :=
  if cfg.mode = .compact ∧ cfg.extBits = 3 then some .paramIllegal
  else if cfg.varlen = false ∧ fixedClass cfg = none then some .fixedLenIllegal
  else if tableWf cfg then none
  else some .tableIllFormed

/-- The class of a layout. -/
def Layout.cls : Layout → LenClass
  | .noOperand => .noOperand
  | .narrow _ => .narrow
  | .single16 _ _ => .single
  | .dual16 _ _ _ _ _ => .dual
  | .single32 _ _ => .single
  | .dual32 _ _ _ _ => .dual
  | .dualExt32 _ _ _ _ _ _ => .dualExt

/-- Whether a build of this MODE has the layout (30_encoding.md R72). -/
def Layout.fitsMode : Layout → Mode → Bool
  | .noOperand, _ => true
  | .narrow _, _ => true
  | .single16 _ _, m => m == .compact
  | .dual16 _ _ _ _ _, m => m == .compact
  | .single32 _ _, m => m == .extended
  | .dual32 _ _ _ _, m => m == .extended
  | .dualExt32 _ _ _ _ _ _, m => m == .extended

/-- The high bit of TYPEk of a layout; a layout without TYPEk has 0 there (30_encoding.md R73). -/
def Layout.typeHigh : Layout → Nat → Bool
  | .single16 t1 _, 1 => t1.msb
  | .single32 t1 _, 1 => t1.msb
  | .dual16 t1 _ _ _ _, 1 => t1.msb
  | .dual16 _ _ t2 _ _, 2 => t2.msb
  | .dual32 t1 _ _ _, 1 => t1.msb
  | .dual32 _ _ t2 _, 2 => t2.msb
  | .dualExt32 t1 _ _ _ _ _, 1 => t1.msb
  | .dualExt32 _ _ t2 _ _ _, 2 => t2.msb
  | .dualExt32 _ _ _ _ t3 _, 3 => t3.msb
  | _, _ => false

/-- The dispatch-phase decode result of opcode byte `op` with a layout, in a build of variable length and
mode `m`: the index is folded again from the parsed type bytes (40_dispatch.md R107). -/
def entryOfLayout (cfg : Config) (m : Mode) (op : Byte) (b : Layout) : Option Cur :=
  if cfg.varlen = true ∧ cfg.mode = m ∧ b.fitsMode m = true then
    entryFor cfg op (b.typeHigh 1) (b.typeHigh 2) (b.typeHigh 3) b.cls
  else none

/-- The same in a fixed-length build, where the layout must be FIXED_CLASS's (40_dispatch.md R105). -/
def entryOfFixed (cfg : Config) (op : Byte) (b : Layout) : Option Cur :=
  if cfg.varlen = false ∧ b.fitsMode cfg.mode = true ∧ fixedClass cfg = some b.cls then
    fixedEntry cfg op (b.typeHigh 1) (b.typeHigh 2) (b.typeHigh 3) b.cls
  else none

/-- The decode result an instruction has in a build: `none` when the build does not have this instruction,
and for UNDEFINED. -/
def Instr.cur (cfg : Config) : Instr → Option Cur
  | .classNoneC0 op => entryOfLayout cfg .compact op .noOperand
  | .classNarrowC1 op raw => entryOfLayout cfg .compact op (.narrow raw)
  | .classSingleC2 op t1 v1 => entryOfLayout cfg .compact op (.single16 t1 v1)
  | .classDualC3 op t1 v1 t2 v2 pad => entryOfLayout cfg .compact op (.dual16 t1 v1 t2 v2 pad)
  | .classNoneX0 op => entryOfLayout cfg .extended op .noOperand
  | .classNarrowX1 op raw => entryOfLayout cfg .extended op (.narrow raw)
  | .classSingleX2 op t1 v1 => entryOfLayout cfg .extended op (.single32 t1 v1)
  | .classDualX3 op t1 v1 t2 v2 => entryOfLayout cfg .extended op (.dual32 t1 v1 t2 v2)
  | .classDualExtX4 op t1 v1 t2 v2 t3 v3 => entryOfLayout cfg .extended op (.dualExt32 t1 v1 t2 v2 t3 v3)
  | .undefinedOpcode _ => none
  | .fixedLength op body => entryOfFixed cfg op body

end Sys2Proof
end

