-- ==== Sys2Proof/WellFormed.lean ====
section
/-! DEFINITION. Which instructions a build has. -/

namespace Sys2Proof

/-- A term is an instruction of the build `cfg` when the build's table selects its row: the selector of
opcode_table.json (30_encoding.md R80). An UNDEFINED term holds 1 to 16 bytes that no class claims
(30_encoding.md R82). -/
def WellFormed (cfg : Config) : Instr → Bool
  | .undefinedOpcode [] => false
  | .undefinedOpcode (op :: rest) => decide (rest.length ≤ 15) && resolve cfg op (op :: rest) == .undefined
  | i => (i.cur cfg).isSome

end Sys2Proof
end

