-- ==== Sys2Proof/Decode.lean ====
section
/-! DEFINITION. The decoder, total on any bytes, and the encoder (30_encoding.md R72, 41_decoder.md R130 to
R139). -/

namespace Sys2Proof

/-- le16: a 16-bit value from two bytes, low byte first (00_scope.md R15, 20_memory.md R53). -/
def le16 (b0 b1 : Byte) : Half := b0.setWidth 16 ||| (b1.setWidth 16 <<< 8)

/-- le32: a 32-bit value from four bytes, low byte first (00_scope.md R15, 20_memory.md R53). -/
def le32 (b0 b1 b2 b3 : Byte) : Wide := (le16 b0 b1).setWidth 32 ||| ((le16 b2 b3).setWidth 32 <<< 16)

/-- The bytes of a 16-bit value, low byte first. -/
def bytes16 (v : Half) : List Byte := [v.extractLsb' 0 8, v.extractLsb' 8 8]

/-- The bytes of a 32-bit value, low byte first. -/
def bytes32 (v : Wide) : List Byte :=
  [v.extractLsb' 0 8, v.extractLsb' 8 8, v.extractLsb' 16 8, v.extractLsb' 24 8]

/-- Why bytes give no instruction. -/
inductive DecodeError where
  /-- there is no byte at all -/
  | noByte
  /-- the instruction, with this decode result, runs past the end of the bytes (42_sequencer.md R165) -/
  | pastEnd (c : Cur)
  /-- two classes claim the bytes: the build's table fails TABLE_WF (40_dispatch.md R106) -/
  | ambiguousTable
  /-- the build's FIXED_LEN is the length of no class (41_decoder.md R131) -/
  | fixedLenIllegal
  deriving DecidableEq, Repr

/-- The layout of class `c` read from the bytes after the opcode byte, and the bytes left over
(30_encoding.md R72). -/
def parseLayout : Mode → LenClass → List Byte → Option (Layout × List Byte)
  | _, .noOperand, r => some (.noOperand, r)
  | _, .narrow, raw :: r => some (.narrow raw, r)
  | .compact, .single, t1 :: a0 :: a1 :: r => some (.single16 t1 (le16 a0 a1), r)
  | .compact, .dual, t1 :: a0 :: a1 :: t2 :: b0 :: b1 :: pad :: r =>
    some (.dual16 t1 (le16 a0 a1) t2 (le16 b0 b1) pad, r)
  | .extended, .single, t1 :: a0 :: a1 :: a2 :: a3 :: r => some (.single32 t1 (le32 a0 a1 a2 a3), r)
  | .extended, .dual, t1 :: a0 :: a1 :: a2 :: a3 :: t2 :: b0 :: b1 :: b2 :: b3 :: r =>
    some (.dual32 t1 (le32 a0 a1 a2 a3) t2 (le32 b0 b1 b2 b3), r)
  | .extended, .dualExt, t1 :: a0 :: a1 :: a2 :: a3 :: t2 :: b0 :: b1 :: b2 :: b3 :: t3 :: c0 :: c1 :: c2 ::
      c3 :: r =>
    some (.dualExt32 t1 (le32 a0 a1 a2 a3) t2 (le32 b0 b1 b2 b3) t3 (le32 c0 c1 c2 c3), r)
  | _, _, _ => none

/-- The instruction of a build with opcode byte `op` and a layout. -/
def instrOfLayout (cfg : Config) (op : Byte) (b : Layout) : Instr :=
  if cfg.varlen then
    match cfg.mode, b with
    | .compact, .noOperand => .classNoneC0 op
    | .compact, .narrow raw => .classNarrowC1 op raw
    | .extended, .noOperand => .classNoneX0 op
    | .extended, .narrow raw => .classNarrowX1 op raw
    | _, .single16 t1 v1 => .classSingleC2 op t1 v1
    | _, .dual16 t1 v1 t2 v2 pad => .classDualC3 op t1 v1 t2 v2 pad
    | _, .single32 t1 v1 => .classSingleX2 op t1 v1
    | _, .dual32 t1 v1 t2 v2 => .classDualX3 op t1 v1 t2 v2
    | _, .dualExt32 t1 v1 t2 v2 t3 v3 => .classDualExtX4 op t1 v1 t2 v2 t3 v3
  else .fixedLength op b

/-- The decoder: the instruction at the head of the bytes from the PC to the end of the program, and the
bytes after it. It resolves the class, compares the length with the bytes there are, and parses
(41_decoder.md R130, R132, 42_sequencer.md R165). -/
def decode (cfg : Config) : List Byte → Except DecodeError (Instr × List Byte)
  | [] => .error .noByte
  | op :: tail =>
    match resolve cfg op (op :: tail) with
    | .undefined => .ok (.undefinedOpcode (op :: tail.take 15), tail.drop 15)
    | .ambiguous => .error .ambiguousTable
    | .fixedLenIllegal => .error .fixedLenIllegal
    | .resolved c =>
      if tail.length + 1 < c.len then .error (.pastEnd c)
      else match parseLayout cfg.mode c.cls tail with
        | some (b, rest) => .ok (instrOfLayout cfg op b, rest)
        | none => .error (.pastEnd c)

/-- The bytes of a layout (30_encoding.md R72). -/
def Layout.bytes : Layout → List Byte
  | .noOperand => []
  | .narrow raw => [raw]
  | .single16 t1 v1 => t1 :: bytes16 v1
  | .dual16 t1 v1 t2 v2 pad => t1 :: bytes16 v1 ++ t2 :: bytes16 v2 ++ [pad]
  | .single32 t1 v1 => t1 :: bytes32 v1
  | .dual32 t1 v1 t2 v2 => t1 :: bytes32 v1 ++ t2 :: bytes32 v2
  | .dualExt32 t1 v1 t2 v2 t3 v3 => t1 :: bytes32 v1 ++ t2 :: bytes32 v2 ++ t3 :: bytes32 v3

/-- The encoder: an instruction's bytes, opcode byte first (30_encoding.md R72, R86). -/
def encode : Instr → List Byte
  | .classNoneC0 op => op :: Layout.noOperand.bytes
  | .classNarrowC1 op raw => op :: (Layout.narrow raw).bytes
  | .classSingleC2 op t1 v1 => op :: (Layout.single16 t1 v1).bytes
  | .classDualC3 op t1 v1 t2 v2 pad => op :: (Layout.dual16 t1 v1 t2 v2 pad).bytes
  | .classNoneX0 op => op :: Layout.noOperand.bytes
  | .classNarrowX1 op raw => op :: (Layout.narrow raw).bytes
  | .classSingleX2 op t1 v1 => op :: (Layout.single32 t1 v1).bytes
  | .classDualX3 op t1 v1 t2 v2 => op :: (Layout.dual32 t1 v1 t2 v2).bytes
  | .classDualExtX4 op t1 v1 t2 v2 t3 v3 => op :: (Layout.dualExt32 t1 v1 t2 v2 t3 v3).bytes
  | .undefinedOpcode bytes => bytes
  | .fixedLength op body => op :: body.bytes

/-- The first `n` bytes of a number, bits 7..0 first. -/
def bytesOfNat : Nat → Nat → List Byte
  | 0, _ => []
  | n + 1, w => BitVec.ofNat 8 w :: bytesOfNat n (w / 256)

/-- The row of the opcode table that has `nbits` bits: its MODE and class. Rows of one and two bytes stand in
both modes, and COMPACT is taken (log entry 18). -/
def rowOfBits : Nat → Option (Mode × LenClass)
  | 8 => some (.compact, .noOperand)
  | 16 => some (.compact, .narrow)
  | 32 => some (.compact, .single)
  | 64 => some (.compact, .dual)
  | 48 => some (.extended, .single)
  | 88 => some (.extended, .dual)
  | 128 => some (.extended, .dualExt)
  | _ => none

/-- A build whose TABLE meets the row's selector at the word's opcode byte, and holds nothing else: the class
of an instruction stands in the table and not in its bytes (30_encoding.md R71, R80; log entry 18). PC_W and
WDT_POLICY are `cfg`'s. -/
def rowBuild (cfg : Config) (nbits w : Nat) : Config :=
  match rowOfBits nbits with
  | none => { cfg with extBits := 0, varlen := true, table := [] }
  | some (m, c) =>
    { cfg with mode := m, extBits := 0, varlen := true, table := [(w % 256, ⟨0, c.code⟩)] }

/-- The longest instruction, in bytes (30_encoding.md R74). -/
def maxLen : Nat := 16

/-- The 16 bytes that begin with the low `nbits` bits of `w`; every bit above is 0. -/
def wordBytes (nbits w : Nat) : List Byte := bytesOfNat maxLen (w % 2 ^ nbits)

/-- The instruction the decoder reads from a word of the opcode table, in a build whose TABLE meets the row's
selector (log entry 18). -/
def decodeTableWord (nbits w : Nat) : Option Instr :=
  match decode (rowBuild Config.reference nbits w) (wordBytes nbits w) with
  | .ok (i, _) => some i
  | .error _ => none

end Sys2Proof
end

