-- ==== Sys2Proof/Machine/State.lean ====
section
/-! DEFINITION. The state of the block, its reset values, and why a step can stop (10_state.md). -/

namespace Sys2Proof.Machine

/-- ENG_STATE (10_state.md R22). -/
inductive EngState where
  | ready
  | running
  | halted
  | aborted
  | faulted
  deriving DecidableEq, Repr, Inhabited

/-- RESULT, what `run` returns (10_state.md R28). -/
inductive RunResult where
  | ok
  | fail
  deriving DecidableEq, Repr, Inhabited

/-- ERR_KIND (10_state.md R29). -/
inductive ErrKind where
  | noError
  | length
  | handler
  | boundsAnomaly
  | invalidJump
  | watchdog
  deriving DecidableEq, Repr, Inhabited

/-- The error record: ERR_KIND, ERR_ADDR, ERR_SNAP (10_state.md R29 to R31). -/
structure ErrorRecord where
  kind : ErrKind
  addr : Nat
  snap : InstrRecord
  deriving DecidableEq, Repr

/-- The cleared error record (10_state.md R39). -/
def ErrorRecord.clear : ErrorRecord := ⟨.noError, 0, .zero⟩

/-- Why the block is in the Faulted state (60_exceptions.md R218). -/
inductive FaultReason where
  | undefinedOpcode
  | unwrittenErrorRecord
  deriving DecidableEq, Repr, Inhabited

/-- A request of the host, served between runs (10_state.md R41). `run` carries the program buffer, a raw
byte sequence with offset 0 first (20_memory.md R51), and `totalLength`. -/
inductive HostRequest where
  | run (prog : List Byte) (n : Nat)
  | lastError
  | setWatchdog (v : Option HookId)
  | requestStop
  | requestJump (t : JumpTarget)
  deriving DecidableEq, Repr

/-- The program buffer: its bytes by offset, offsets strictly rising (20_memory.md R50, R51). An offset it
does not list is no byte of the buffer (log entry 17). -/
abbrev Memory := List Host.Cell

/-- The state. `cfg` holds the build parameters, which no step changes (10_state.md R35; log entry 1). The
last six fields are the model's own: the host's pending requests and what LASTERR last replied (log entry
11), and the replies of external calls with the counters at which the free ones are read (log entry 4). -/
structure State where
  cfg : Config
  engState : EngState
  pc : Nat
  totalLen : Nat
  jmpValid : Bool
  jmpTarget : JumpTarget
  termReq : Bool
  wdtHook : Option HookId
  result : RunResult
  err : ErrorRecord
  record : InstrRecord
  cur : Cur
  faultReason : Option FaultReason
  faultPc : Nat
  mem : Memory
  hostReqs : List HostRequest
  lastErrorReply : Option ErrorRecord
  handlerReplies : List HandlerReply
  hookReplies : List HookReply
  handlerCalls : Nat
  hookCalls : Nat
  deriving DecidableEq, Repr

/-- The power-on state (10_state.md R40). The spec gives ENG_STATE, WDT_HOOK, TERM_REQ and JMP_VALID; every
other value is a DESIGN CHOICE (log entries 2, 3, 4 and 11), and no program buffer has been supplied. -/
def State.reset : State :=
  { cfg := .reference
    engState := .ready
    pc := 0
    totalLen := 0
    jmpValid := false
    jmpTarget := 0
    termReq := false
    wdtHook := none
    result := .ok
    err := .clear
    record := .zero
    cur := ⟨0, .noOperand, 1, 0⟩
    faultReason := none
    faultPc := 0
    mem := []
    hostReqs := []
    lastErrorReply := none
    handlerReplies := []
    hookReplies := []
    handlerCalls := 0
    hookCalls := 0 }

/-- Why a step stops without a next state. -/
inductive Fault where
  /-- A step of a machine in the Faulted state, which has no way out (10_state.md R22); raised by `step`. Safe:
  the machine stops where the spec gives it no way on. -/
  | faulted
  /-- A handler or hook call that never returns: the model has no step past it (70_reset_and_hazards.md R256,
  93_implementation_defined.md I-9); raised by every format instruction and by `step`'s hook call. Safe: a claim
  about a run's end must assume that every call returns. -/
  | callNeverReturned
  deriving DecidableEq, Repr

/-- Why the model gives an input no meaning (60_exceptions.md R219). -/
inductive Refusal where
  /-- An instruction without a meaning yet; raised by no instruction of this model. Safe. -/
  | notModelled (mnemonic : String)
  /-- `run` called while a run is in progress (42_sequencer.md R160); raised by a handler or hook call that calls
  `run`, and by the RUN request. Safe. -/
  | reentrantRun
  /-- TABLE fails TABLE_WF (40_dispatch.md R106); raised by the RUN request and by an ambiguous decode. Safe. -/
  | tableIllFormed
  /-- FIXED_LEN is the length of no class of the MODE (41_decoder.md R131); raised by the RUN request and by a
  decode in such a build. Safe. -/
  | fixedLenIllegal
  /-- EXT_BITS = 3 with COMPACT, or totalLength > 2^PC_W - 1 (00_scope.md R7, R10); raised by the RUN request.
  Safe. -/
  | paramIllegal
  /-- totalLength is larger than the buffer (20_memory.md R59); raised by the RUN request, and by a fetch of a
  byte that the buffer does not have. Safe. -/
  | lengthOverstatesBuffer
  deriving DecidableEq, Repr

end Sys2Proof.Machine
end

