-- ==== Sys2Proof/Machine/Flags.lean ====
section
/-! DEFINITION. The two flags, the hook register and the numeric codes: what sets, reads and clears them
(10_state.md R22, R25 to R29, R36, R38, 42_sequencer.md R164, R171, R175 to R177). -/

namespace Sys2Proof.Machine

/-- The 3-bit code of ENG_STATE (10_state.md R22). -/
def EngState.code : EngState → BitVec 3
  | .ready => 0
  | .running => 1
  | .halted => 2
  | .aborted => 3
  | .faulted => 4

/-- The 1-bit code of RESULT (10_state.md R28). -/
def RunResult.code : RunResult → BitVec 1
  | .ok => 0
  | .fail => 1

/-- The 3-bit code of ERR_KIND (10_state.md R29). -/
def ErrKind.code : ErrKind → BitVec 3
  | .noError => 0
  | .length => 1
  | .handler => 2
  | .boundsAnomaly => 3
  | .invalidJump => 4
  | .watchdog => 5

/-- The 2-bit code of a handler signal (10_state.md R38). -/
def respCode : Resp → BitVec 2
  | .ok => 0
  | .error => 1
  | .endRun => 2
  | .reset => 3

/-- requestJump(t) (42_sequencer.md R175). -/
def State.requestJump (t : JumpTarget) (s : State) : State := { s with jmpValid := true, jmpTarget := t }

/-- requestStop() (42_sequencer.md R176). -/
def State.requestStop (s : State) : State := { s with termReq := true }

/-- setWatchdog(v) (42_sequencer.md R177). -/
def State.setWatchdog (v : Option HookId) (s : State) : State := { s with wdtHook := v }

/-- The stop taken at step b clears TERM_REQ (42_sequencer.md R164). -/
def State.clearStop (s : State) : State := { s with termReq := false }

/-- The jump requests of one call, in order: the last one wins (42_sequencer.md R171). -/
def State.requestJumps (ts : List JumpTarget) (s : State) : State :=
  ts.foldl (fun s t => s.requestJump t) s

/-- The stop requests of one call (42_sequencer.md R171). -/
def State.requestStopIf (stop : Bool) (s : State) : State := if stop then s.requestStop else s

/-- The last `setWatchdog` of one call, if any (42_sequencer.md R171). -/
def State.setWatchdogIf (h : Option (Option HookId)) (s : State) : State :=
  match h with
  | none => s
  | some v => s.setWatchdog v

end Sys2Proof.Machine
end

