-- ==== Sys2Proof/Machine/Operands.lean ====
section
/-! DEFINITION. Operand assembly: the instruction record that `fill` makes of each layout (41_decoder.md R132 to
R140). -/

namespace Sys2Proof.Machine

/-- A COMPACT value in a record field: the raw unsigned number, not sign-extended (30_encoding.md R77). -/
def wideOfHalf (v : Half) : Wide := v.setWidth 32

/-- parse() with `fill(MODE, cls)`: the zero record with the opcode index and the fields of the layout, type
bytes whole (41_decoder.md R132 to R139, 30_encoding.md R76, R78). The padding byte goes nowhere (R75). -/
def fillRecord (idx : OpIndex) : Layout → InstrRecord
  | .noOperand => { InstrRecord.zero with opcodeIndex := idx }
  | .narrow raw => { InstrRecord.zero with opcodeIndex := idx, dstType := raw }
  | .single16 t1 v1 => { InstrRecord.zero with opcodeIndex := idx, dstType := t1, dstValue := wideOfHalf v1 }
  | .dual16 t1 v1 t2 v2 _ =>
    { InstrRecord.zero with opcodeIndex := idx, dstType := t1, dstValue := wideOfHalf v1, srcType := t2,
                            srcValue := wideOfHalf v2 }
  | .single32 t1 v1 => { InstrRecord.zero with opcodeIndex := idx, dstType := t1, dstValue := v1 }
  | .dual32 t1 v1 t2 v2 =>
    { InstrRecord.zero with opcodeIndex := idx, dstType := t1, dstValue := v1, srcType := t2, srcValue := v2 }
  | .dualExt32 t1 v1 t2 v2 t3 v3 =>
    { opcodeIndex := idx, dstType := t1, dstValue := v1, srcType := t2, srcValue := v2, extType := t3,
      extValue := v3 }

/-- DISPATCH_IDX(rec, cls): the opcode index worked out again from a parsed record (40_dispatch.md R107). -/
def dispatchIdx (cfg : Config) (r : InstrRecord) (c : LenClass) : OpIndex :=
  foldIndex cfg.extBits c (r.opcodeIndex.setWidth 8) r.dstType.msb r.srcType.msb r.extType.msb

end Sys2Proof.Machine
end

