-- ==== Sys2Proof/Machine/Ops.lean ====
section
/-! DEFINITION. The shared operations: program memory and fetch, ends of a run (halt, abort, fault), external
calls, the arbiter and run start (20_memory.md, 42_sequencer.md, 60_exceptions.md). -/

namespace Sys2Proof.Machine

/-- What an offset that the buffer does not list reads as: no byte (log entry 17). -/
def Memory.unlisted : Option Byte := none

/-- MemRead(off, 1) (20_memory.md R52). -/
def Memory.read (m : Memory) (off : Nat) : Option Byte :=
  match m.lookup off with
  | some b => some b
  | none => Memory.unlisted

/-- The canonical form of a buffer: offsets strictly rising. -/
abbrev Memory.wf (m : Memory) : Prop := m.Pairwise fun x y => x.1 < y.1

/-- The buffer whose bytes from offset `off` on are `bs` and which has no other byte. -/
def Memory.ofBytesFrom (off : Nat) : List Byte → Memory
  | [] => []
  | b :: bs => (off, b) :: Memory.ofBytesFrom (off + 1) bs

/-- The buffer that a raw byte sequence is: offset 0 is its first byte (20_memory.md R51). -/
def Memory.ofBytes (bs : List Byte) : Memory := Memory.ofBytesFrom 0 bs

/-- The buffer as an external call leaves it: an offset that `img` lists holds the byte listed first, every
other keeps its byte, and the buffer has the offsets it had (20_memory.md R61; log entry 5). -/
def Memory.overlay (m : Memory) (img : List Host.Cell) : Memory :=
  m.map fun c => (c.1, (img.lookup c.1).getD c.2)

/-- Whether the bytes at offsets `0 .. n - 1` all exist (20_memory.md R59). -/
def Memory.covers (m : Memory) (n : Nat) : Bool := (List.range n).all fun off => (m.read off).isSome

/-- The `n` bytes from offset `off` on, if the buffer has them all. -/
def Memory.readBytes (m : Memory) (off : Nat) : Nat → Option (List Byte)
  | 0 => some []
  | n + 1 =>
    match m.read off, m.readBytes (off + 1) n with
    | some b, some bs => some (b :: bs)
    | _, _ => none

/-- The bytes a cycle's steps c and d may read: from the PC to the end of the program, at most the 16 bytes of
the longest instruction; never an offset at or above TOTAL_LEN (20_memory.md R52, R56; log entry 15). -/
def State.window (s : State) : Option (List Byte) :=
  s.mem.readBytes s.pc (min maxLen (s.totalLen - s.pc))

/-- halt(): the successful end of a run (42_sequencer.md R167). -/
def State.halt (s : State) : State := { s with engState := .halted, result := .ok }

/-- abort(kind, addr, snap): the error record is written, RESULT is FAIL, and nothing else changes
(60_exceptions.md R212). -/
def State.abort (kind : ErrKind) (addr : Nat) (snap : InstrRecord) (s : State) : State :=
  { s with engState := .aborted, result := .fail, err := ⟨kind, addr, snap⟩ }

/-- wdt_abort(), by WDT_POLICY (60_exceptions.md R216). -/
def State.wdtAbort (s : State) : State :=
  match s.cfg.wdtPolicy with
  | .normalize => s.abort .watchdog s.pc .zero
  | .preserve => { s with engState := .aborted, result := .fail }

/-- fault(reason): the Faulted state (60_exceptions.md R218; log entry 9). -/
def State.enterFault (reason : FaultReason) (s : State) : State :=
  { s with engState := .faulted, faultReason := some reason, faultPc := s.pc }

/-- The program buffer after an external call (42_sequencer.md R171). -/
def State.writeProgram (img : List Host.Cell) (s : State) : State := { s with mem := s.mem.overlay img }

/-- apply(o): the requests of one external call, jumps, stop, hook, program buffer (42_sequencer.md R171,
R172). -/
def State.applyRequests (r : Requests) (s : State) : State :=
  (((s.requestJumps r.jumps).requestStopIf r.stop).setWatchdogIf r.hook).writeProgram r.prog

/-- The reply of the next handler call: the next one chosen beforehand, else a free value (log entry 4). -/
def State.handlerReply (h : HandlerId) (r : InstrRecord) (s : State) : HandlerReply :=
  match s.handlerReplies with
  | reply :: _ => reply
  | [] => Config.freeHandlerReply s.handlerCalls h r

/-- One handler call has been made. -/
def State.countHandlerCall (s : State) : State :=
  { s with handlerReplies := s.handlerReplies.tail, handlerCalls := s.handlerCalls + 1 }

/-- The reply of the next hook call: the next one chosen beforehand, else a free value (log entry 4). -/
def State.hookReply (hk : HookId) (s : State) : HookReply :=
  match s.hookReplies with
  | reply :: _ => reply
  | [] => Config.freeHookReply s.hookCalls hk

/-- One hook call has been made. -/
def State.countHookCall (s : State) : State :=
  { s with hookReplies := s.hookReplies.tail, hookCalls := s.hookCalls + 1 }

/-- Steps c and d write CUR and REC (41_decoder.md R130, R132). -/
def State.latch (c : Cur) (r : InstrRecord) (s : State) : State := { s with cur := c, record := r }

/-- Taking a valid jump (42_sequencer.md R181). -/
def State.takeJump (s : State) : State :=
  { s with pc := s.jmpTarget.toNat % 2 ^ s.cfg.pcW, jmpValid := false }

/-- Step g with a jump pending: validate the whole target, then take it or abort (42_sequencer.md R181). -/
def State.jumpOrAbort (s : State) : State :=
  if s.totalLen ≤ s.jmpTarget.toNat then s.abort .invalidJump s.pc s.record else s.takeJump

/-- Signal OK: PC advances by the instruction's length (42_sequencer.md R184). -/
def State.advance (s : State) : State := { s with pc := s.pc + s.cur.len }

/-- Signal RESET: PC is 0 and nothing else changes (42_sequencer.md R185). -/
def State.resetPc (s : State) : State := { s with pc := 0 }

/-- Step h: the handler's signal, with no jump pending (42_sequencer.md R182 to R185). ERROR never reaches it
(R186); it would end the run as at step e. -/
def State.signal (resp : Resp) (s : State) : State :=
  match resp with
  | .ok => s.advance
  | .endRun => s.halt
  | .reset => s.resetPc
  | .error => s.abort .handler s.pc s.record

/-- Steps e to h after the handler's requests are applied: ERROR, the bounds re-check, a pending jump, then the
signal, in this order (42_sequencer.md R162, R168, R169, R180 to R187). -/
def State.arbitrate (resp : Resp) (s : State) : State :=
  if resp = .error then s.abort .handler s.pc s.record
  else if s.totalLen ≤ s.pc then s.abort .boundsAnomaly s.pc s.record
  else if s.jmpValid then s.jumpOrAbort
  else s.signal resp

/-- Steps d to h for an instruction with decode result `c` and record `r`: write CUR and REC, call the handler
(DISPATCH, 40_dispatch.md R108), apply its requests, arbitrate. A handler that calls `run` is refused, and one
that never returns leaves no next step (42_sequencer.md R160, R170, 70_reset_and_hazards.md R256). -/
def State.dispatch (c : Cur) (r : InstrRecord) (s : State) : Host.Outcome State Fault Refusal :=
  match s.handlerReply c.handler r with
  | .returned o => .next ((((s.latch c r).countHandlerCall).applyRequests o.reqs).arbitrate o.resp)
  | .calledRun => .refused .reentrantRun
  | .neverReturns => .fault .callNeverReturned

/-- A format instruction: with a decode result it is dispatched on the record of its layout; a build whose
table does not select it has no such instruction, as for bytes no class claims (60_exceptions.md R218; log
entry 13). -/
def State.runFormat (c : Option Cur) (b : Layout) (s : State) : Host.Outcome State Fault Refusal :=
  match c with
  | some c => s.dispatch c (fillRecord c.idx b)
  | none => .next (s.enterFault .undefinedOpcode)

/-- Step 1 of a run: what run start writes, and the supplied buffer (42_sequencer.md R161, 10_state.md R39). -/
def State.startRun (prog : List Byte) (n : Nat) (s : State) : State :=
  { s with termReq := false, pc := 0, err := .clear, jmpValid := false, totalLen := n,
           engState := .running, mem := .ofBytes prog }

end Sys2Proof.Machine
end

