-- ==== Sys2Proof/Machine/Compact.lean ====
section
/-! DEFINITION. The COMPACT formats C0 to C3 (41_decoder.md R133 to R136). -/

namespace Sys2Proof.Machine

/-- Format C0, class NONE (41_decoder.md R133). -/
def execClassNoneC0 (op : Byte) (s : State) : Host.Outcome State Fault Refusal :=
  s.runFormat (entryOfLayout s.cfg .compact op .noOperand) .noOperand

/-- Format C1, class NARROW (41_decoder.md R134). -/
def execClassNarrowC1 (op raw : Byte) (s : State) : Host.Outcome State Fault Refusal :=
  s.runFormat (entryOfLayout s.cfg .compact op (.narrow raw)) (.narrow raw)

/-- Format C2, class SINGLE (41_decoder.md R135). -/
def execClassSingleC2 (op t1 : Byte) (v1 : Half) (s : State) : Host.Outcome State Fault Refusal :=
  s.runFormat (entryOfLayout s.cfg .compact op (.single16 t1 v1)) (.single16 t1 v1)

/-- Format C3, class DUAL (41_decoder.md R136). -/
def execClassDualC3 (op t1 : Byte) (v1 : Half) (t2 : Byte) (v2 : Half) (pad : Byte) (s : State) :
    Host.Outcome State Fault Refusal :=
  s.runFormat (entryOfLayout s.cfg .compact op (.dual16 t1 v1 t2 v2 pad)) (.dual16 t1 v1 t2 v2 pad)

end Sys2Proof.Machine
end

