-- ==== Sys2Proof/Machine/Extended.lean ====
section
/-! DEFINITION. The EXTENDED formats X0 to X4 (41_decoder.md R133, R134, R137 to R139). -/

namespace Sys2Proof.Machine

/-- Format X0, class NONE (41_decoder.md R133). -/
def execClassNoneX0 (op : Byte) (s : State) : Host.Outcome State Fault Refusal :=
  s.runFormat (entryOfLayout s.cfg .extended op .noOperand) .noOperand

/-- Format X1, class NARROW (41_decoder.md R134). -/
def execClassNarrowX1 (op raw : Byte) (s : State) : Host.Outcome State Fault Refusal :=
  s.runFormat (entryOfLayout s.cfg .extended op (.narrow raw)) (.narrow raw)

/-- Format X2, class SINGLE (41_decoder.md R137). -/
def execClassSingleX2 (op t1 : Byte) (v1 : Wide) (s : State) : Host.Outcome State Fault Refusal :=
  s.runFormat (entryOfLayout s.cfg .extended op (.single32 t1 v1)) (.single32 t1 v1)

/-- Format X3, class DUAL (41_decoder.md R138). -/
def execClassDualX3 (op t1 : Byte) (v1 : Wide) (t2 : Byte) (v2 : Wide) (s : State) :
    Host.Outcome State Fault Refusal :=
  s.runFormat (entryOfLayout s.cfg .extended op (.dual32 t1 v1 t2 v2)) (.dual32 t1 v1 t2 v2)

/-- Format X4, class DUAL_EXT (41_decoder.md R139). -/
def execClassDualExtX4 (op t1 : Byte) (v1 : Wide) (t2 : Byte) (v2 : Wide) (t3 : Byte) (v3 : Wide) (s : State) :
    Host.Outcome State Fault Refusal :=
  s.runFormat (entryOfLayout s.cfg .extended op (.dualExt32 t1 v1 t2 v2 t3 v3))
    (.dualExt32 t1 v1 t2 v2 t3 v3)

end Sys2Proof.Machine
end

