-- ==== Sys2Proof/Machine/FixedLength.lean ====
section
/-! DEFINITION. The instructions of a fixed-length build (30_encoding.md R85, 40_dispatch.md R105). -/

namespace Sys2Proof.Machine

/-- An instruction in the layout of FIXED_CLASS; its table entry's own class tag is ignored (40_dispatch.md
R105). -/
def execFixedLength (op : Byte) (body : Layout) (s : State) : Host.Outcome State Fault Refusal :=
  s.runFormat (entryOfFixed s.cfg op body) body

end Sys2Proof.Machine
end

