-- ==== Sys2Proof/Machine/Undefined.lean ====
section
/-! DEFINITION. Bytes no class claims (30_encoding.md R82, 60_exceptions.md R218). -/

namespace Sys2Proof.Machine

/-- `fault(UNDEFINED_OPCODE)`: the Faulted state, with the reason and the PC, whatever the bytes are
(60_exceptions.md R218). -/
def execUndefinedOpcode (_bytes : List Byte) (s : State) : Host.Outcome State Fault Refusal :=
  .next (s.enterFault .undefinedOpcode)

end Sys2Proof.Machine
end

