-- ==== Sys2Proof/Machine/Dispatch.lean ====
section
/-! DEFINITION. The meaning of each instruction, one arm per row of the opcode table: steps d to h of the
execution cycle (42_sequencer.md R162). -/

namespace Sys2Proof.Machine

def exec (i : Instr) (s : State) : Host.Outcome State Fault Refusal :=
  match i with
  | .classNoneC0 op => Sys2Proof.Machine.execClassNoneC0 op s
  | .classNarrowC1 op raw => Sys2Proof.Machine.execClassNarrowC1 op raw s
  | .classSingleC2 op t1 v1 => Sys2Proof.Machine.execClassSingleC2 op t1 v1 s
  | .classDualC3 op t1 v1 t2 v2 pad => Sys2Proof.Machine.execClassDualC3 op t1 v1 t2 v2 pad s
  | .classNoneX0 op => Sys2Proof.Machine.execClassNoneX0 op s
  | .classNarrowX1 op raw => Sys2Proof.Machine.execClassNarrowX1 op raw s
  | .classSingleX2 op t1 v1 => Sys2Proof.Machine.execClassSingleX2 op t1 v1 s
  | .classDualX3 op t1 v1 t2 v2 => Sys2Proof.Machine.execClassDualX3 op t1 v1 t2 v2 s
  | .classDualExtX4 op t1 v1 t2 v2 t3 v3 => Sys2Proof.Machine.execClassDualExtX4 op t1 v1 t2 v2 t3 v3 s
  | .undefinedOpcode bytes => Sys2Proof.Machine.execUndefinedOpcode bytes s
  | .fixedLength op body => Sys2Proof.Machine.execFixedLength op body s

end Sys2Proof.Machine
end

