-- ==== Sys2Proof/Machine/Cycle.lean ====
section
/-! DEFINITION. The execution cycle around an instruction: the loop test and steps a to c (42_sequencer.md R162
to R165). -/

namespace Sys2Proof.Machine

/-- Step c, and d to h with the instruction found: decode at the PC; an instruction that runs past TOTAL_LEN
is a LENGTH abort with a zero snapshot, CUR having been written (42_sequencer.md R165). The refusals are those
of a build or a buffer that run start refuses (log entries 12 and 15). -/
def State.fetchAndExec (s : State) : Host.Outcome State Fault Refusal :=
  match s.window with
  | none => .refused .lengthOverstatesBuffer
  | some bytes =>
    match decode s.cfg bytes with
    | .ok (i, _) => exec i s
    | .error (.pastEnd c) => .next ((s.latch c s.record).abort .length s.pc .zero)
    | .error .noByte => .refused .lengthOverstatesBuffer
    | .error .ambiguousTable => .refused .tableIllFormed
    | .error .fixedLenIllegal => .refused .fixedLenIllegal

/-- Step b, the cooperative stop, and what follows it (42_sequencer.md R164). -/
def State.stopOrFetch (s : State) : Host.Outcome State Fault Refusal :=
  if s.termReq then .next s.clearStop.halt else s.fetchAndExec

/-- Step a, the watchdog, and what follows it (42_sequencer.md R163). -/
def State.watchdogThenRest (s : State) : Host.Outcome State Fault Refusal :=
  match s.wdtHook with
  | none => s.stopOrFetch
  | some hk =>
    match s.hookReply hk with
    | .returned o =>
      if o.ok then (s.countHookCall.applyRequests o.reqs).stopOrFetch
      else .next (s.countHookCall.applyRequests o.reqs).wdtAbort
    | .calledRun => .refused .reentrantRun
    | .neverReturns => .fault .callNeverReturned

/-- One pass of the loop: the loop test ends the run when PC ≥ TOTAL_LEN (42_sequencer.md R162, R167). -/
def State.cycle (s : State) : Host.Outcome State Fault Refusal :=
  if s.pc < s.totalLen then s.watchdogThenRest else .next s.halt

end Sys2Proof.Machine
end

