-- ==== Sys2Proof/Machine/HostPort.lean ====
section
/-! DEFINITION. The host's interfaces: RUN, LASTERR, SETWDT, STOPREQ, JUMPREQ, and what the host can read
(10_state.md R41 to R44, 42_sequencer.md R160, R175 to R178). -/

namespace Sys2Proof.Machine

/-- The refusal of a flawed configuration (60_exceptions.md R219). -/
def refusalOf : ConfigFlaw → Refusal
  | .paramIllegal => .paramIllegal
  | .fixedLenIllegal => .fixedLenIllegal
  | .tableIllFormed => .tableIllFormed

/-- run(prog, n): refused while a run is in progress, in a build the model refuses, for a length that PC_W
bits do not hold, and for a length that overstates the buffer; else step 1 of the run (42_sequencer.md R160,
R161, 60_exceptions.md R219; log entry 12). -/
def State.hostRun (prog : List Byte) (n : Nat) (s : State) : Host.Outcome State Fault Refusal :=
  if s.engState = .running then .refused .reentrantRun
  else match configFlaw s.cfg with
    | some flaw => .refused (refusalOf flaw)
    | none =>
      if 2 ^ s.cfg.pcW - 1 < n then .refused .paramIllegal
      else if prog.length < n then .refused .lengthOverstatesBuffer
      else .next (s.startRun prog n)

/-- lastError(): before any run has started it is a fault, and then ENG_STATE is READY; else it replies with
the error record and writes no state of the block (42_sequencer.md R178, 10_state.md R44; log entry 10). -/
def State.hostLastError (s : State) : Host.Outcome State Fault Refusal :=
  if s.engState = .ready then .next (s.enterFault .unwrittenErrorRecord)
  else .next { s with lastErrorReply := some s.err }

/-- One host request (10_state.md R41). -/
def State.serve (r : HostRequest) (s : State) : Host.Outcome State Fault Refusal :=
  match r with
  | .run prog n => s.hostRun prog n
  | .lastError => s.hostLastError
  | .setWatchdog v => .next (s.setWatchdog v)
  | .requestStop => .next s.requestStop
  | .requestJump t => .next (s.requestJump t)

/-- Between runs: the oldest pending request is served; with none pending the block waits (70_reset_and_hazards.md
R250; log entry 11). -/
def State.idle (s : State) : Host.Outcome State Fault Refusal :=
  match s.hostReqs with
  | [] => .next s
  | r :: rs => State.serve r { s with hostReqs := rs }

/-- How many external calls were made: where the free values of the host's view are read (log entry 19). -/
def State.callsMade (s : State) : Nat := s.handlerCalls + s.hookCalls

/-- ENG_STATE as the host reads it: unspecified in the Faulted state (10_state.md R42, R43). -/
def State.visibleEngState (s : State) : BitVec 3 :=
  if s.engState = .faulted then Config.freeEngState s.callsMade else s.engState.code

/-- RESULT as the host reads it: it has meaning only in HALTED and ABORTED (10_state.md R28, R42, R43). -/
def State.visibleResult (s : State) : BitVec 1 :=
  if s.engState = .halted ∨ s.engState = .aborted then s.result.code else Config.freeResult s.callsMade

/-- Whether the error record has a meaning for the host: a run has started, and the block is not in the Faulted
state (10_state.md R40, R43, R44; log entry 10). -/
def State.recordReadable (s : State) : Bool :=
  match s.engState with
  | .ready => false
  | .running => true
  | .halted => true
  | .aborted => true
  | .faulted => false

/-- ERR_KIND as the host reads it; unwritten before the first run, unspecified in FAULTED (10_state.md R42 to
R44). -/
def State.visibleErrKind (s : State) : BitVec 3 :=
  if s.recordReadable then s.err.kind.code else Config.freeErrKind s.callsMade

/-- ERR_ADDR as the host reads it, likewise (10_state.md R42 to R44). -/
def State.visibleErrAddr (s : State) : Nat :=
  if s.recordReadable then s.err.addr else Config.freeErrAddr s.callsMade

/-- ERR_SNAP as the host reads it, likewise (10_state.md R42 to R44). -/
def State.visibleErrSnap (s : State) : InstrRecord :=
  if s.recordReadable then s.err.snap else Config.freeErrSnap s.callsMade

end Sys2Proof.Machine
end

