-- ==== Sys2Proof/Machine/Step.lean ====
section
/-! DEFINITION. One step of the machine: one execution cycle while a run is in progress (42_sequencer.md R162),
one host request between runs, and nothing after a fault (10_state.md R22). -/

namespace Sys2Proof.Machine

/-- One step. -/
def step (s : State) : Host.Outcome State Fault Refusal :=
  match s.engState with
  | .running => s.cycle
  | .faulted => .fault .faulted
  | .ready => s.idle
  | .halted => s.idle
  | .aborted => s.idle

/-- A handler reply for the call that the placed instruction makes, when none is chosen: signal OK and no
request (log entry 18). -/
def okReply : HandlerReply := .returned ⟨.ok, .nothing⟩

/-- `s` in a run whose next cycle fetches and runs the instruction whose bits are `w`: a build that meets its
row's selector, a 16-byte program that holds it at offset 0, no hook and no stop before it, and a reply for its
handler call. It stands for the host's load of a program (log entry 18). -/
def State.withFetchWord (s : State) (nbits w : Nat) : State :=
  { s with cfg := rowBuild s.cfg nbits w
           engState := .running
           pc := 0
           totalLen := maxLen
           mem := .ofBytes (wordBytes nbits w)
           termReq := false
           wdtHook := none
           handlerReplies := match s.handlerReplies with
             | [] => [okReply]
             | replies => replies }

end Sys2Proof.Machine
end

