-- ==== Sys2Proof/Safety.lean ====
section
/-! DEFINITION. What claims about runs are stated in: the invariant of the machine, the frame of a handler call,
the end and the length of a run, and when two states start the same run. -/

namespace Sys2Proof.Machine

/-- A record as the build can hold one: the index has IDX_W bits, and in COMPACT the extension fields are zero
and the values have 16 bits (10_state.md R32). -/
structure RecordShape (cfg : Config) (r : InstrRecord) : Prop where
  index : r.opcodeIndex.toNat < nOps cfg
  compact : cfg.mode = .compact →
    r.extType = 0 ∧ r.extValue = 0 ∧ r.dstValue.toNat < 2 ^ 16 ∧ r.srcValue.toNat < 2 ^ 16

/-- What holds between any two steps: the buffer is in canonical form and has every byte below TOTAL_LEN; PC,
ERR_ADDR and TOTAL_LEN stay in range (10_state.md R23, R24, R30); REC, ERR_SNAP and CUR have the build's shape
(R32, R34); FAULTED has its reason and PC (R43); a run in progress has a build the model takes, a cleared error
record and no pending jump (R25, R39); a halted run has RESULT OK and a cleared record, an aborted one FAIL
(R28, R44). -/
structure Inv (s : State) : Prop where
  memWf : Memory.wf s.mem
  buffer : s.mem.covers s.totalLen = true
  lengthFits : s.totalLen ≤ 2 ^ s.cfg.pcW - 1
  pcInProgram : s.pc ≤ s.totalLen
  errAddr : s.err.addr ≤ s.totalLen
  recordShape : RecordShape s.cfg s.record
  snapShape : RecordShape s.cfg s.err.snap
  curIndex : s.cur.idx.toNat < nOps s.cfg
  curLen : 1 ≤ s.cur.len ∧ s.cur.len ≤ maxLen
  faultRecorded : s.engState = .faulted ↔ s.faultReason.isSome = true
  faultPc : s.engState = .faulted → s.faultPc = s.pc
  running : s.engState = .running → configFlaw s.cfg = none ∧ s.jmpValid = false ∧ s.err = .clear
  halted : s.engState = .halted → s.result = .ok ∧ s.err = .clear
  aborted : s.engState = .aborted → s.result = .fail

/-- The transitions of ENG_STATE that 10_state.md R22 lists, staying in a state, and the fault of reading the
error record before the first run (R44; log entry 10). -/
def legalTransition : EngState → EngState → Bool
  | .ready, .ready => true
  | .ready, .running => true
  | .ready, .faulted => true
  | .running, .faulted => true
  | .running, .running => true
  | .running, .halted => true
  | .running, .aborted => true
  | .halted, .halted => true
  | .halted, .running => true
  | .aborted, .aborted => true
  | .aborted, .running => true
  | _, _ => false

/-- What a handler call with requests `r` leaves alone and what its requests write, whatever the arbiter then
does: every element but ENG_STATE, PC, RESULT, the error record, the jump register, REC and CUR. A byte of the
program buffer is unchanged unless the reply's image lists it (42_sequencer.md R171, 20_memory.md R61). -/
structure CallFrame (r : Requests) (s t : State) : Prop where
  cfg : t.cfg = s.cfg
  totalLen : t.totalLen = s.totalLen
  termReq : t.termReq = (s.termReq || r.stop)
  wdtHook : t.wdtHook = r.hook.getD s.wdtHook
  faultReason : t.faultReason = s.faultReason
  faultPc : t.faultPc = s.faultPc
  memory : ∀ off, t.mem.read off = (s.mem.read off).map fun b => (r.prog.lookup off).getD b
  hostReqs : t.hostReqs = s.hostReqs
  lastErrorReply : t.lastErrorReply = s.lastErrorReply
  hookReplies : t.hookReplies = s.hookReplies
  hookCalls : t.hookCalls = s.hookCalls
  handlerReplies : t.handlerReplies = s.handlerReplies.tail
  handlerCalls : t.handlerCalls = s.handlerCalls + 1

/-- Format instruction `i`, an instruction of the build, has decode result `c` and record `r` in state `s`, and
its handler call returns outcome `o`: what a cycle knows when it reaches step e with a handler that keeps its
contract (42_sequencer.md R162, R170). -/
structure Dispatches (i : Instr) (s : State) (c : Cur) (r : InstrRecord) (o : HandlerOutcome) : Prop where
  cur : i.cur s.cfg = some c
  record : ∃ op b, i.format = some (op, b) ∧ r = fillRecord c.idx b
  reply : s.handlerReply c.handler r = .returned o

/-- The state at step b of a cycle, where step a lets it go on: with no hook the state itself, with a hook that
returns `ok` the state with its requests applied (42_sequencer.md R162, R163). -/
def State.atStepB (s : State) : Option State :=
  match s.wdtHook with
  | none => some s
  | some hk =>
    match s.hookReply hk with
    | .returned o => if o.ok then some (s.countHookCall.applyRequests o.reqs) else none
    | .calledRun => none
    | .neverReturns => none

/-- A cycle of a run reaches step c in state `u`: the loop test passes, step a goes on, no stop is requested
(42_sequencer.md R162). -/
structure ReachesStepC (s u : State) : Prop where
  running : s.engState = .running
  inProgram : s.pc < s.totalLen
  afterHook : s.atStepB = some u
  noStop : u.termReq = false

/-- JMP_VALID as step g reads it: a jump of this cycle's hook call, or one of this handler call
(42_sequencer.md R187). -/
def jumpPending (s : State) (o : HandlerOutcome) : Bool := s.jmpValid || !o.reqs.jumps.isEmpty

/-- JMP_TARGET as step g reads it: the handler call's last request, else what the register holds. -/
def pendingTarget (s : State) (o : HandlerOutcome) : JumpTarget := o.reqs.jumps.getLastD s.jmpTarget

/-- A state from which a run may be started: READY, HALTED or ABORTED (42_sequencer.md R160, 10_state.md R22). -/
def State.betweenRuns (s : State) : Bool :=
  s.engState == .ready || s.engState == .halted || s.engState == .aborted

/-- The run that `s` is in, or was in, is over: ENG_STATE has left RUNNING (70_reset_and_hazards.md R251). -/
def State.runOver (s : State) : Bool := s.engState == .halted || s.engState == .aborted || s.engState == .faulted

/-- A state a safe run may pass through: the Faulted state is never final and never successful
(60_exceptions.md R218). -/
def State.safe (s : State) : Bool := s.engState != .faulted

/-- A cycle that ends with PC anywhere but just past its instruction: a jump taken or a RESET acted on
(42_sequencer.md R188). -/
def redirected (s t : State) : Bool := t.engState == .running && t.pc != s.pc + t.cur.len

/-- `RunPath s t calls redirects`: cycles of one run lead from `s` to `t`, with that many handler calls and
that many redirections (42_sequencer.md R188). -/
inductive RunPath (s : State) : State → Nat → Nat → Prop where
  | start : RunPath s s 0 0
  | cycle {t u : State} {calls redirects : Nat} :
      RunPath s t calls redirects → t.engState = .running → step t = .next u →
      RunPath s u (calls + (u.handlerCalls - t.handlerCalls))
        (redirects + if redirected t u then 1 else 0)

/-- Agreement on all that a run, and the host after it, can depend on. JMP_TARGET is compared only while a jump
is pending, RESULT only when a run has ended, the fault's reason and PC only in FAULTED; REC, CUR and what
LASTERR replied earlier are not compared (42_sequencer.md R189). -/
structure SameRun (s t : State) : Prop where
  cfg : s.cfg = t.cfg
  engState : s.engState = t.engState
  pc : s.pc = t.pc
  totalLen : s.totalLen = t.totalLen
  jmpValid : s.jmpValid = t.jmpValid
  jmpTarget : s.jmpValid = true → s.jmpTarget = t.jmpTarget
  termReq : s.termReq = t.termReq
  wdtHook : s.wdtHook = t.wdtHook
  result : s.engState = .halted ∨ s.engState = .aborted → s.result = t.result
  err : s.err = t.err
  fault : s.engState = .faulted → s.faultReason = t.faultReason ∧ s.faultPc = t.faultPc
  mem : s.mem = t.mem
  hostReqs : s.hostReqs = t.hostReqs
  handlerReplies : s.handlerReplies = t.handlerReplies
  hookReplies : s.hookReplies = t.hookReplies
  handlerCalls : s.handlerCalls = t.handlerCalls
  hookCalls : s.hookCalls = t.hookCalls

/-- Two outcomes of runs that agree: next states that agree, or the same stop. -/
def SameOutcome : Host.Outcome State Fault Refusal → Host.Outcome State Fault Refusal → Prop
  | .next s, .next t => SameRun s t
  | .fault a, .fault b => a = b
  | .refused a, .refused b => a = b
  | _, _ => False

end Sys2Proof.Machine
end

