-- ==== Sys2Proof/Certificates/Slice0/Obligations.lean ====
section
/-! DEFINITION. The statements about the model, from the numbered rules of spec/. Where a docstring says
"the spec's decision D<n>" or "the spec's derivation", the spec marks that clause as its own inference. -/

open Sys2Proof Sys2Proof.Machine

/-! ## Encoding, folding and resolution -/

/-- Words written out byte by byte from the encodings of 30_encoding.md R72 and the vectors DC0 to DX4 of
95_test_vectors.md decode to the instructions they stand for. Which build a word is read in is the model's choice
(log entries 18 and 2): the class stands in the TABLE and not in the bytes (30_encoding.md R71), and
`decodeTableWord` takes a one-entry TABLE by the number of bits, an 8-bit word as C0 and not X0, a 16-bit one as C1
and not X1. -/
def Obligations.DecoderReadsSpecWords : Prop :=
  decodeTableWord 8 0x01 = some (.classNoneC0 0x01) ∧
  decodeTableWord 16 0x4110 = some (.classNarrowC1 0x10 0x41) ∧
  decodeTableWord 32 0x12340526 = some (.classSingleC2 0x26 0x05 0x1234) ∧
  decodeTableWord 64 0x5ABEEF02ABCD0130 = some (.classDualC3 0x30 0x01 0xABCD 0x02 0xBEEF 0x5A) ∧
  decodeTableWord 48 0x123456780026 = some (.classSingleX2 0x26 0x00 0x12345678) ∧
  decodeTableWord 88 0x0506070802010203040130 =
    some (.classDualX3 0x30 0x01 0x01020304 0x02 0x05060708) ∧
  decodeTableWord 128 0x00000033030000002202000000110132 =
    some (.classDualExtX4 0x32 1 0x11 2 0x22 3 0x33)

/-- Decoding an encoded instruction of the build gives it back with the bytes that follow it, for every format,
every operand value and every build the model takes. An UNDEFINED term stands for the bytes at the PC up to the
end of the program, so nothing follows it (log entry 14). -/
def Obligations.DecodeInvertsEncode : Prop :=
  ∀ (cfg : Config) (i : Instr) (rest : List Byte),
    configFlaw cfg = none → WellFormed cfg i = true → (i.format = none → rest = []) →
    decode cfg (encode i ++ rest) = .ok (i, rest)

/-- What the decoder accepts is an instruction of the build, and encodes to exactly the bytes it was read
from, padding byte included. -/
def Obligations.EncodeInvertsDecode : Prop :=
  ∀ (cfg : Config) (bytes rest : List Byte) (i : Instr),
    decode cfg bytes = .ok (i, rest) → encode i ++ rest = bytes ∧ WellFormed cfg i = true

/-- The folded index: bits 7..0 are the base opcode byte, and TYPEk's high bit is bit 7 + k when k ≤ EXT_BITS
and the class has TYPEk. -/
def Obligations.FoldPlacesTypeBits : Prop :=
  ∀ (e : Fin 4) (c : LenClass) (op : Byte) (h1 h2 h3 : Bool),
    (foldIndex e c op h1 h2 h3).setWidth 8 = op ∧
    (foldIndex e c op h1 h2 h3).getLsbD 8 = (decide (1 ≤ e.val) && c.hasType 1 && h1) ∧
    (foldIndex e c op h1 h2 h3).getLsbD 9 = (decide (2 ≤ e.val) && c.hasType 2 && h2) ∧
    (foldIndex e c op h1 h2 h3).getLsbD 10 = (decide (3 ≤ e.val) && c.hasType 3 && h3)

/-- A table that passes TABLE_WF gives every byte sequence at most one consistent class: the check over whole
bit vectors covers every gated window (the spec's derivation in 40_dispatch.md R106, decision D7). -/
def Obligations.TableWfGivesOneClass : Prop :=
  ∀ (cfg : Config) (op : Byte) (window : List Byte),
    tableWf cfg = true → (candidates cfg op window).length ≤ 1

/-- With EXT_BITS = 0 every table passes TABLE_WF (2), and the class is the tag of the entry at the opcode byte
(the spec's derivations in 40_dispatch.md R104 and R106). -/
def Obligations.ExtBitsZeroResolvesByOpcodeByte : Prop :=
  ∀ cfg : Config, cfg.extBits = 0 →
    atMostOneClass cfg = true ∧
    ∀ (op : Byte) (window : List Byte), cfg.varlen = true →
      (tableLookup cfg.table (op.setWidth 11) = none → resolve cfg op window = .undefined) ∧
      ∀ (h : HandlerId) (c : LenClass) (n : Nat),
        tableLookup cfg.table (op.setWidth 11) = some (h, c) → lenOf cfg.mode c = some n →
        resolve cfg op window = .resolved ⟨op.setWidth 11, c, n, h⟩

/-- The folding property: with wide-class entries at `op` and at `op | 0x100`, the instruction with TYPE1's high
bit clear resolves to the first and the one with it set to the second. The high bits of TYPE2 and TYPE3 need be clear
only where the entry's class folds them (the spec's derivation in 40_dispatch.md R109). -/
def Obligations.HighTypeBitSelectsTheOtherEntry : Prop :=
  ∀ (cfg : Config) (op : Byte) (window : List Byte) (h h' : HandlerId) (c c' : LenClass) (n n' : Nat),
    cfg.varlen = true → tableWf cfg = true → 1 ≤ cfg.extBits.val →
    c.hasType 1 = true → c'.hasType 1 = true → lenOf cfg.mode c = some n → lenOf cfg.mode c' = some n' →
    tableLookup cfg.table (op.setWidth 11) = some (h, c) →
    tableLookup cfg.table (op.setWidth 11 ||| 0x100) = some (h', c') →
    (typeBit cfg.mode window 1 = false →
      (∀ k, k = 2 ∨ k = 3 → k ≤ cfg.extBits.val → c.hasType k = true → typeBit cfg.mode window k = false) →
      resolve cfg op window = .resolved ⟨op.setWidth 11, c, n, h⟩) ∧
    (typeBit cfg.mode window 1 = true →
      (∀ k, k = 2 ∨ k = 3 → k ≤ cfg.extBits.val → c'.hasType k = true → typeBit cfg.mode window k = false) →
      resolve cfg op window = .resolved ⟨op.setWidth 11 ||| 0x100, c', n', h'⟩)

/-- A class with a type byte past the end of the program, whose bit was read as 0 by the gate, never runs: the
decoder reports that the instruction runs past the end (the spec's derivation in 40_dispatch.md R103,
decision D8). -/
def Obligations.GatedTypeBitNeverExecutes : Prop :=
  ∀ (cfg : Config) (op : Byte) (tail : List Byte) (c : Cur) (k off : Nat),
    resolve cfg op (op :: tail) = .resolved c → c.cls.hasType k = true → typeOffset cfg.mode k = some off →
    (op :: tail).length ≤ off → decode cfg (op :: tail) = .error (.pastEnd c)

/-- The length phase and the dispatch phase agree: the decoded instruction's own decode result, folded again
from its type bytes, is the resolved one; DISPATCH_IDX of its record is the resolved index; and the handler is
that of the table's entry there (the spec's derivation in 40_dispatch.md R107, decision D6). -/
def Obligations.LengthAndDispatchPhasesAgree : Prop :=
  ∀ (cfg : Config) (op : Byte) (tail rest : List Byte) (c : Cur) (i : Instr),
    resolve cfg op (op :: tail) = .resolved c → decode cfg (op :: tail) = .ok (i, rest) →
    i.cur cfg = some c ∧
    ∃ b, i.format = some (op, b) ∧ dispatchIdx cfg (fillRecord c.idx b) c.cls = c.idx ∧
      (tableLookup cfg.table c.idx).map Prod.fst = some c.handler

/-- LEN(MODE, cls), entry by entry, and the longest instruction has 16 bytes. -/
def Obligations.InstructionLengths : Prop :=
  (∀ m, lenOf m .noOperand = some 1 ∧ lenOf m .narrow = some 2) ∧
  lenOf .compact .single = some 4 ∧ lenOf .compact .dual = some 8 ∧ lenOf .compact .dualExt = none ∧
  lenOf .extended .single = some 6 ∧ lenOf .extended .dual = some 11 ∧ lenOf .extended .dualExt = some 16 ∧
  ∀ m c n, lenOf m c = some n → n ≤ 16

/-- FIXED_LENGTH builds: the index is folded for FIXED_CLASS, the entry's own tag is ignored, the length is
FIXED_LEN, and an absent entry is undefined (the spec's decision D10, 40_dispatch.md R105). -/
def Obligations.FixedLengthResolution : Prop :=
  ∀ (cfg : Config) (op : Byte) (window : List Byte) (c : LenClass),
    cfg.varlen = false → lenOf cfg.mode c = some cfg.fixedLen →
    (∀ (h : HandlerId) (tag : LenClass),
      tableLookup cfg.table (foldIndex cfg.extBits c op (typeBit cfg.mode window 1) (typeBit cfg.mode window 2)
        (typeBit cfg.mode window 3)) = some (h, tag) →
      resolve cfg op window = .resolved ⟨foldIndex cfg.extBits c op (typeBit cfg.mode window 1)
        (typeBit cfg.mode window 2) (typeBit cfg.mode window 3), c, cfg.fixedLen, h⟩) ∧
    (tableLookup cfg.table (foldIndex cfg.extBits c op (typeBit cfg.mode window 1) (typeBit cfg.mode window 2)
        (typeBit cfg.mode window 3)) = none →
      resolve cfg op window = .undefined)

/-! ## The formats: what each instruction's bytes make of REC, and that the instruction completes -/

/-- CLASS_NONE (C0, X0): one byte; only the opcode index of REC is set. -/
def Obligations.NoneFormatsParseAndComplete : Prop :=
  ∀ (s : State) (op : Byte) (rest : List Byte) (c : Cur) (o : HandlerOutcome),
    s.cfg.varlen = true → resolve s.cfg op (op :: rest) = .resolved c → c.cls = .noOperand →
    s.handlerReply c.handler ⟨c.idx, 0, 0, 0, 0, 0, 0⟩ = .returned o →
    c.len = 1 ∧
    ∃ i t, i = (if s.cfg.mode = .compact then Instr.classNoneC0 op else Instr.classNoneX0 op) ∧
      decode s.cfg (op :: rest) = .ok (i, rest) ∧ exec i s = .next t ∧
      t.cur = c ∧ t.record = ⟨c.idx, 0, 0, 0, 0, 0, 0⟩

/-- CLASS_NARROW (C1, X1): two bytes; the raw byte is dst_type and dst_value stays 0 (the spec's decision
D5). -/
def Obligations.NarrowFormatsParseAndComplete : Prop :=
  ∀ (s : State) (op raw : Byte) (rest : List Byte) (c : Cur) (o : HandlerOutcome),
    s.cfg.varlen = true → resolve s.cfg op (op :: raw :: rest) = .resolved c → c.cls = .narrow →
    s.handlerReply c.handler ⟨c.idx, raw, 0, 0, 0, 0, 0⟩ = .returned o →
    c.len = 2 ∧
    ∃ i t, i = (if s.cfg.mode = .compact then Instr.classNarrowC1 op raw else Instr.classNarrowX1 op raw) ∧
      decode s.cfg (op :: raw :: rest) = .ok (i, rest) ∧ exec i s = .next t ∧
      t.cur = c ∧ t.record = ⟨c.idx, raw, 0, 0, 0, 0, 0⟩

/-- CLASS_SINGLE, C2: four bytes; TYPE1 whole into dst_type, VALUE1 little-endian and unsigned into
dst_value. -/
def Obligations.SingleC2ParsesAndCompletes : Prop :=
  ∀ (s : State) (op t1 a0 a1 : Byte) (rest : List Byte) (c : Cur) (o : HandlerOutcome),
    s.cfg.varlen = true → s.cfg.mode = .compact →
    resolve s.cfg op (op :: t1 :: a0 :: a1 :: rest) = .resolved c → c.cls = .single →
    s.handlerReply c.handler ⟨c.idx, t1, BitVec.ofNat 32 (a0.toNat + 256 * a1.toNat), 0, 0, 0, 0⟩ =
      .returned o →
    c.len = 4 ∧
    ∃ v1 t, decode s.cfg (op :: t1 :: a0 :: a1 :: rest) = .ok (.classSingleC2 op t1 v1, rest) ∧
      exec (.classSingleC2 op t1 v1) s = .next t ∧ t.cur = c ∧
      t.record = ⟨c.idx, t1, BitVec.ofNat 32 (a0.toNat + 256 * a1.toNat), 0, 0, 0, 0⟩

/-- CLASS_DUAL, C3: eight bytes; two type and value pairs, and a padding byte at offset 7 that is not in REC
(the spec's decision D4). -/
def Obligations.DualC3ParsesAndCompletes : Prop :=
  ∀ (s : State) (op t1 a0 a1 t2 b0 b1 pad : Byte) (rest : List Byte) (c : Cur) (o : HandlerOutcome),
    s.cfg.varlen = true → s.cfg.mode = .compact →
    resolve s.cfg op (op :: t1 :: a0 :: a1 :: t2 :: b0 :: b1 :: pad :: rest) = .resolved c → c.cls = .dual →
    s.handlerReply c.handler ⟨c.idx, t1, BitVec.ofNat 32 (a0.toNat + 256 * a1.toNat), t2,
      BitVec.ofNat 32 (b0.toNat + 256 * b1.toNat), 0, 0⟩ = .returned o →
    c.len = 8 ∧
    ∃ v1 v2 t, decode s.cfg (op :: t1 :: a0 :: a1 :: t2 :: b0 :: b1 :: pad :: rest) =
        .ok (.classDualC3 op t1 v1 t2 v2 pad, rest) ∧
      exec (.classDualC3 op t1 v1 t2 v2 pad) s = .next t ∧ t.cur = c ∧
      t.record = ⟨c.idx, t1, BitVec.ofNat 32 (a0.toNat + 256 * a1.toNat), t2,
        BitVec.ofNat 32 (b0.toNat + 256 * b1.toNat), 0, 0⟩

/-- CLASS_SINGLE, X2: six bytes; a 32-bit VALUE1. -/
def Obligations.SingleX2ParsesAndCompletes : Prop :=
  ∀ (s : State) (op t1 a0 a1 a2 a3 : Byte) (rest : List Byte) (c : Cur) (o : HandlerOutcome),
    s.cfg.varlen = true → s.cfg.mode = .extended →
    resolve s.cfg op (op :: t1 :: a0 :: a1 :: a2 :: a3 :: rest) = .resolved c → c.cls = .single →
    s.handlerReply c.handler ⟨c.idx, t1, BitVec.ofNat 32 (a0.toNat + 256 * a1.toNat + 65536 * a2.toNat +
      16777216 * a3.toNat), 0, 0, 0, 0⟩ = .returned o →
    c.len = 6 ∧
    ∃ v1 t, decode s.cfg (op :: t1 :: a0 :: a1 :: a2 :: a3 :: rest) = .ok (.classSingleX2 op t1 v1, rest) ∧
      exec (.classSingleX2 op t1 v1) s = .next t ∧ t.cur = c ∧
      t.record = ⟨c.idx, t1, BitVec.ofNat 32 (a0.toNat + 256 * a1.toNat + 65536 * a2.toNat +
        16777216 * a3.toNat), 0, 0, 0, 0⟩

/-- CLASS_DUAL, X3: eleven bytes, no padding; the extension fields stay 0. -/
def Obligations.DualX3ParsesAndCompletes : Prop :=
  ∀ (s : State) (op t1 a0 a1 a2 a3 t2 b0 b1 b2 b3 : Byte) (rest : List Byte) (c : Cur) (o : HandlerOutcome),
    s.cfg.varlen = true → s.cfg.mode = .extended →
    resolve s.cfg op (op :: t1 :: a0 :: a1 :: a2 :: a3 :: t2 :: b0 :: b1 :: b2 :: b3 :: rest) = .resolved c →
    c.cls = .dual →
    s.handlerReply c.handler ⟨c.idx, t1, BitVec.ofNat 32 (a0.toNat + 256 * a1.toNat + 65536 * a2.toNat +
      16777216 * a3.toNat), t2, BitVec.ofNat 32 (b0.toNat + 256 * b1.toNat + 65536 * b2.toNat +
      16777216 * b3.toNat), 0, 0⟩ = .returned o →
    c.len = 11 ∧
    ∃ v1 v2 t, decode s.cfg (op :: t1 :: a0 :: a1 :: a2 :: a3 :: t2 :: b0 :: b1 :: b2 :: b3 :: rest) =
        .ok (.classDualX3 op t1 v1 t2 v2, rest) ∧
      exec (.classDualX3 op t1 v1 t2 v2) s = .next t ∧ t.cur = c ∧
      t.record = ⟨c.idx, t1, BitVec.ofNat 32 (a0.toNat + 256 * a1.toNat + 65536 * a2.toNat +
        16777216 * a3.toNat), t2, BitVec.ofNat 32 (b0.toNat + 256 * b1.toNat + 65536 * b2.toNat +
        16777216 * b3.toNat), 0, 0⟩

/-- CLASS_DUAL_EXT, X4: sixteen bytes; all seven fields of REC are written; with EXT_BITS = 3 bit 7 of byte 11 is
opcode-index bit 10; and no COMPACT build has the class. -/
def Obligations.DualExtX4ParsesAndCompletes : Prop :=
  (∀ (cfg : Config) (op : Byte) (window : List Byte) (c : Cur), cfg.mode = .compact →
    resolve cfg op window = .resolved c → c.cls ≠ .dualExt) ∧
  ∀ (s : State) (op t1 a0 a1 a2 a3 t2 b0 b1 b2 b3 t3 c0 c1 c2 c3 : Byte) (rest : List Byte) (c : Cur)
    (o : HandlerOutcome),
    s.cfg.varlen = true → s.cfg.mode = .extended →
    resolve s.cfg op (op :: t1 :: a0 :: a1 :: a2 :: a3 :: t2 :: b0 :: b1 :: b2 :: b3 :: t3 :: c0 :: c1 :: c2 ::
      c3 :: rest) = .resolved c →
    c.cls = .dualExt →
    s.handlerReply c.handler ⟨c.idx, t1, BitVec.ofNat 32 (a0.toNat + 256 * a1.toNat + 65536 * a2.toNat +
      16777216 * a3.toNat), t2, BitVec.ofNat 32 (b0.toNat + 256 * b1.toNat + 65536 * b2.toNat +
      16777216 * b3.toNat), t3, BitVec.ofNat 32 (c0.toNat + 256 * c1.toNat + 65536 * c2.toNat +
      16777216 * c3.toNat)⟩ = .returned o →
    c.len = 16 ∧ (s.cfg.extBits = 3 → c.idx.getLsbD 10 = t3.msb) ∧
    ∃ v1 v2 v3 t, decode s.cfg (op :: t1 :: a0 :: a1 :: a2 :: a3 :: t2 :: b0 :: b1 :: b2 :: b3 :: t3 :: c0 ::
        c1 :: c2 :: c3 :: rest) = .ok (.classDualExtX4 op t1 v1 t2 v2 t3 v3, rest) ∧
      exec (.classDualExtX4 op t1 v1 t2 v2 t3 v3) s = .next t ∧ t.cur = c ∧
      t.record = ⟨c.idx, t1, BitVec.ofNat 32 (a0.toNat + 256 * a1.toNat + 65536 * a2.toNat +
        16777216 * a3.toNat), t2, BitVec.ofNat 32 (b0.toNat + 256 * b1.toNat + 65536 * b2.toNat +
        16777216 * b3.toNat), t3, BitVec.ofNat 32 (c0.toNat + 256 * c1.toNat + 65536 * c2.toNat +
        16777216 * c3.toNat)⟩

/-- FIXED_LENGTH: in a fixed-length build every resolved instruction that fits is decoded in FIXED_CLASS's
layout and completes with CUR and the record of that layout (the spec's decision D10). -/
def Obligations.FixedLengthParsesAndCompletes : Prop :=
  ∀ (s : State) (op : Byte) (tail : List Byte) (c : Cur),
    s.cfg.varlen = false → resolve s.cfg op (op :: tail) = .resolved c → c.len ≤ tail.length + 1 →
    c.len = s.cfg.fixedLen ∧ lenOf s.cfg.mode c.cls = some c.len ∧
    ∃ b rest, b.cls = c.cls ∧ decode s.cfg (op :: tail) = .ok (.fixedLength op b, rest) ∧
      tail.length + 1 = c.len + rest.length ∧
      ∀ o, s.handlerReply c.handler (fillRecord c.idx b) = .returned o →
        ∃ t, exec (.fixedLength op b) s = .next t ∧ t.cur = c ∧ t.record = fillRecord c.idx b

/-- UNDEFINED: a cycle whose bytes no class claims enters the Faulted state, with the reason and the PC, and
calls no handler; the instruction itself does the same in every state (the spec's decisions D9 and D27; log
entry 9). -/
def Obligations.UndefinedOpcodeFaults : Prop :=
  (∀ (bytes : List Byte) (s : State), ∃ t, exec (.undefinedOpcode bytes) s = .next t ∧
    t = { s with engState := .faulted, faultReason := some .undefinedOpcode, faultPc := s.pc }) ∧
  ∀ (s u : State) (op : Byte) (tail : List Byte), ReachesStepC s u → u.window = some (op :: tail) →
    resolve u.cfg op (op :: tail) = .undefined →
    ∃ t, step s = .next t ∧
      t = { u with engState := .faulted, faultReason := some .undefinedOpcode, faultPc := u.pc }

/-- After a format instruction's cycle reached the handler, every REC field its class lacks is zero, and in
COMPACT the extension fields are (the spec's derivation in 41_decoder.md R140). -/
def Obligations.RecordFieldsOutsideTheClassAreZero : Prop :=
  ∀ (i : Instr) (s : State) (c : Cur) (r : InstrRecord) (o : HandlerOutcome), Dispatches i s c r o →
    ∃ t, exec i s = .next t ∧ t.record = r ∧ r.opcodeIndex = c.idx ∧
      (c.cls = .noOperand → r.dstType = 0) ∧
      (c.cls = .noOperand ∨ c.cls = .narrow → r.dstValue = 0) ∧
      (c.cls = .noOperand ∨ c.cls = .narrow ∨ c.cls = .single → r.srcType = 0 ∧ r.srcValue = 0) ∧
      (c.cls ≠ .dualExt → r.extType = 0 ∧ r.extValue = 0) ∧
      (s.cfg.mode = .compact → r.extType = 0 ∧ r.extValue = 0)

/-! ## The arbiter: every row of the truth table, with the frame of the handler call

Each holds of every format instruction: classNoneC0, classNarrowC1, classSingleC2, classDualC3, classNoneX0,
classNarrowX1, classSingleX2, classDualX3, classDualExtX4 and fixedLength.

What the requests of a call write is the spec's decisions D16 (the last jump wins, stops do not count) and D20 (the
program buffer is in the reply); that the buffer keeps its offsets and the bytes that a reply's image does not list is
log entry 5. The `CallFrame` of each statement rests on these, and so does its `pendingTarget`. -/

/-- Signal OK with no jump pending: PC advances by the length; an instruction that ends the program is followed
by a halt (42_sequencer.md R184). `CallFrame`: D16, D20, log entry 5. -/
def Obligations.OkAdvancesPc : Prop :=
  ∀ (i : Instr) (s : State) (c : Cur) (r : InstrRecord) (o : HandlerOutcome), Dispatches i s c r o →
    o.resp = .ok → jumpPending s o = false → s.pc < s.totalLen →
    ∃ t, exec i s = .next t ∧ t.pc = s.pc + c.len ∧ t.engState = s.engState ∧ t.result = s.result ∧
      t.err = s.err ∧ t.jmpValid = false ∧ t.jmpTarget = s.jmpTarget ∧ t.cur = c ∧ t.record = r ∧
      CallFrame o.reqs s t ∧
      (s.pc + c.len ≤ s.totalLen → t.pc ≤ t.totalLen ∧
        (t.pc = t.totalLen → t.engState = .running →
          ∃ u, step t = .next u ∧ u.engState = .halted ∧ u.result = .ok))

/-- Signal END: with no jump pending the run halts with OK, PC not advanced; a pending jump to a target inside
the program overrides it, and the run does not stop (42_sequencer.md R183). The target is the last request's (D16).
`CallFrame`: D16, D20, log entry 5. -/
def Obligations.EndHaltsTheRun : Prop :=
  ∀ (i : Instr) (s : State) (c : Cur) (r : InstrRecord) (o : HandlerOutcome), Dispatches i s c r o →
    o.resp = .endRun → s.pc < s.totalLen → s.totalLen ≤ 2 ^ s.cfg.pcW - 1 →
    ∃ t, exec i s = .next t ∧ t.cur = c ∧ t.record = r ∧ CallFrame o.reqs s t ∧
      (jumpPending s o = false → t.engState = .halted ∧ t.result = .ok ∧ t.pc = s.pc ∧ t.err = s.err ∧
        t.jmpValid = false ∧ t.jmpTarget = s.jmpTarget) ∧
      (jumpPending s o = true → (pendingTarget s o).toNat < s.totalLen →
        t.engState = s.engState ∧ t.result = s.result ∧ t.pc = (pendingTarget s o).toNat ∧ t.err = s.err ∧
          t.jmpValid = false)

/-- Signal RESET: with no jump pending PC is 0, wherever it was, and nothing else is reset; a pending jump to a
target inside the program overrides it (42_sequencer.md R185, 70_reset_and_hazards.md R241). The target is the last
request's (D16). `CallFrame`: D16, D20, log entry 5. -/
def Obligations.ResetSetsPcToZero : Prop :=
  ∀ (i : Instr) (s : State) (c : Cur) (r : InstrRecord) (o : HandlerOutcome), Dispatches i s c r o →
    o.resp = .reset → s.pc < s.totalLen → s.totalLen ≤ 2 ^ s.cfg.pcW - 1 →
    ∃ t, exec i s = .next t ∧ t.cur = c ∧ t.record = r ∧ CallFrame o.reqs s t ∧
      (jumpPending s o = false → t.pc = 0 ∧ t.engState = s.engState ∧ t.result = s.result ∧ t.err = s.err ∧
        t.jmpValid = false ∧ t.jmpTarget = s.jmpTarget) ∧
      (jumpPending s o = true → (pendingTarget s o).toNat < s.totalLen →
        t.engState = s.engState ∧ t.result = s.result ∧ t.pc = (pendingTarget s o).toNat ∧ t.err = s.err ∧
          t.jmpValid = false)

/-- A pending jump to a target inside the program beats END, RESET and OK: PC is the target, the jump register
is cleared and the run goes on (42_sequencer.md R180, R181). The target is the last request's (D16), of 32 bits
(D15). `CallFrame`: D16, D20, log entry 5. -/
def Obligations.ValidJumpBeatsTheSignal : Prop :=
  ∀ (i : Instr) (s : State) (c : Cur) (r : InstrRecord) (o : HandlerOutcome), Dispatches i s c r o →
    o.resp ≠ .error → jumpPending s o = true → s.pc < s.totalLen → s.totalLen ≤ 2 ^ s.cfg.pcW - 1 →
    (pendingTarget s o).toNat < s.totalLen →
    ∃ t, exec i s = .next t ∧ t.pc = (pendingTarget s o).toNat ∧ t.jmpValid = false ∧
      t.jmpTarget = pendingTarget s o ∧ t.engState = s.engState ∧ t.result = s.result ∧ t.err = s.err ∧
      t.cur = c ∧ t.record = r ∧ CallFrame o.reqs s t

/-- A pending jump whose whole 32-bit target is at or past TOTAL_LEN aborts, END or not: the record holds the
requesting instruction's offset and its snapshot (60_exceptions.md R217), and JMP_VALID stays set (42_sequencer.md
R181, 90_conflicts.md C10). The target is the last request's (D16), compared at 32 bits (D15). `CallFrame`: D16, D20,
log entry 5. -/
def Obligations.InvalidJumpAborts : Prop :=
  ∀ (i : Instr) (s : State) (c : Cur) (r : InstrRecord) (o : HandlerOutcome), Dispatches i s c r o →
    o.resp ≠ .error → jumpPending s o = true → s.pc < s.totalLen →
    s.totalLen ≤ (pendingTarget s o).toNat →
    ∃ t, exec i s = .next t ∧ t.engState = .aborted ∧ t.result = .fail ∧ t.err = ⟨.invalidJump, s.pc, r⟩ ∧
      t.pc = s.pc ∧ t.jmpValid = true ∧ t.jmpTarget = pendingTarget s o ∧ t.cur = c ∧ t.record = r ∧
      CallFrame o.reqs s t

/-- Signal ERROR aborts with HANDLER at step e, before any look at the jump register or the program's end
(42_sequencer.md R168, R186). JMP_TARGET is then the last request's (D16). `CallFrame`: D16, D20, log entry 5. -/
def Obligations.HandlerErrorAborts : Prop :=
  ∀ (i : Instr) (s : State) (c : Cur) (r : InstrRecord) (o : HandlerOutcome), Dispatches i s c r o →
    o.resp = .error →
    ∃ t, exec i s = .next t ∧ t.engState = .aborted ∧ t.result = .fail ∧ t.err = ⟨.handler, s.pc, r⟩ ∧
      t.pc = s.pc ∧ t.jmpValid = jumpPending s o ∧ t.jmpTarget = pendingTarget s o ∧ t.cur = c ∧
      t.record = r ∧ CallFrame o.reqs s t

/-- The defensive re-check of step f: with PC at or past TOTAL_LEN a signal other than ERROR aborts with
BOUNDS_ANOMALY. Only states that no run reaches meet it (the spec's decision D18 gives the record). `CallFrame`:
D16, D20, log entry 5. -/
def Obligations.BoundsAnomalyAborts : Prop :=
  ∀ (i : Instr) (s : State) (c : Cur) (r : InstrRecord) (o : HandlerOutcome), Dispatches i s c r o →
    o.resp ≠ .error → s.totalLen ≤ s.pc →
    ∃ t, exec i s = .next t ∧ t.engState = .aborted ∧ t.result = .fail ∧ t.err = ⟨.boundsAnomaly, s.pc, r⟩ ∧
      t.pc = s.pc ∧ t.jmpValid = jumpPending s o ∧ t.jmpTarget = pendingTarget s o ∧ t.cur = c ∧
      t.record = r ∧ CallFrame o.reqs s t

/-- No run of the block reaches the BOUNDS_ANOMALY abort (the spec's derivation in 42_sequencer.md R169). -/
def Obligations.NoRunReachesBoundsAnomaly : Prop :=
  ∀ s t : State, Inv s → s.engState = .running → step s = .next t → t.err.kind ≠ .boundsAnomaly

/-- A handler that calls `run` is refused and one that never returns leaves no next step (the spec's decision
D25; 42_sequencer.md R160, 70_reset_and_hazards.md R256). -/
def Obligations.BrokenHandlerContractsStop : Prop :=
  ∀ (i : Instr) (s : State) (c : Cur) (op : Byte) (b : Layout),
    i.cur s.cfg = some c → i.format = some (op, b) →
    (s.handlerReply c.handler (fillRecord c.idx b) = .calledRun → exec i s = .refused .reentrantRun) ∧
    (s.handlerReply c.handler (fillRecord c.idx b) = .neverReturns → exec i s = .fault .callNeverReturned)

/-- apply(o): the last jump request wins, any number of stop requests act as one, the last `setWatchdog` counts,
and the buffer holds what the reply's image lists (the spec's decisions D16, D20 and D31; that the buffer keeps its
offsets and the bytes not listed is log entry 5). -/
def Obligations.RequestsAreApplied : Prop :=
  ∀ (r : Requests) (s : State), let t := s.applyRequests r
    t.jmpValid = (s.jmpValid || !r.jumps.isEmpty) ∧ t.jmpTarget = r.jumps.getLastD s.jmpTarget ∧
    t.termReq = (s.termReq || r.stop) ∧ t.wdtHook = r.hook.getD s.wdtHook ∧
    (∀ off, t.mem.read off = (s.mem.read off).map fun b => (r.prog.lookup off).getD b) ∧
    t = { s with jmpValid := t.jmpValid, jmpTarget := t.jmpTarget, termReq := t.termReq,
                 wdtHook := t.wdtHook, mem := t.mem }

/-! ## The execution cycle -/

/-- A cycle that reaches step c runs the decoded instruction: step is exec of it at the state in which step c is
reached (the state itself when no hook is installed). -/
def Obligations.StepRunsTheDecodedInstruction : Prop :=
  ∀ (s u : State) (bytes rest : List Byte) (i : Instr), ReachesStepC s u → u.window = some bytes →
    decode u.cfg bytes = .ok (i, rest) → step s = exec i u ∧ (s.wdtHook = none → u = s)

/-- The bytes a cycle decodes are the program's, from PC on, at most 16, none at or past TOTAL_LEN, and where
the buffer covers TOTAL_LEN they are there. -/
def Obligations.FetchReadsOnlyTheProgram : Prop :=
  ∀ s : State,
    (∀ bytes, s.window = some bytes → bytes.length = min 16 (s.totalLen - s.pc) ∧
      ∀ k, k < bytes.length → s.pc + k < s.totalLen ∧ s.mem.read (s.pc + k) = bytes[k]?) ∧
    (s.mem.covers s.totalLen = true → ∃ bytes, s.window = some bytes)

/-- The loop test: with PC at or past TOTAL_LEN the run halts with OK, and no handler or hook is called. -/
def Obligations.LoopTestHaltsAtTheEnd : Prop :=
  ∀ s : State, s.engState = .running → s.totalLen ≤ s.pc →
    ∃ t, step s = .next t ∧ t = { s with engState := .halted, result := .ok }

/-- A run halts in exactly three ways: the loop test, a stop at step b, and END with no jump pending. RESULT is
then OK, PC keeps its value, and the error record reads as run start left it. -/
def Obligations.ThreeWaysToHalt : Prop :=
  ∀ s t : State, Inv s → s.engState = .running → step s = .next t →
    (t.engState = .halted ↔
      s.totalLen ≤ s.pc ∨
      (s.pc < s.totalLen ∧ ∃ u, s.atStepB = some u ∧ u.termReq = true) ∨
      ∃ u bytes rest i c r o, ReachesStepC s u ∧ u.window = some bytes ∧ decode u.cfg bytes = .ok (i, rest) ∧
        Dispatches i u c r o ∧ o.resp = .endRun ∧ jumpPending u o = false) ∧
    (t.engState = .halted → t.result = .ok ∧ t.pc = s.pc ∧ t.err = ⟨.noError, 0, ⟨0, 0, 0, 0, 0, 0, 0⟩⟩)

/-- Step a: a hook that signals failure aborts the run, whatever else it asked. The record is kept under PRESERVE and
written under NORMALIZE (the spec's decision D14). What it asked is applied first (42_sequencer.md R162, R163; D16,
D29; the buffer by D20 and log entry 5): a hook it installed is there for the next run, and its stop and jump stay
pending until run start drops them. Every other element keeps its value. -/
def Obligations.WatchdogFailureAborts : Prop :=
  ∀ (s : State) (hk : HookId) (o : HookOutcome), s.engState = .running → s.pc < s.totalLen →
    s.wdtHook = some hk → s.hookReply hk = .returned o → o.ok = false →
    ∃ t, step s = .next t ∧ t.engState = .aborted ∧ t.result = .fail ∧
      (s.cfg.wdtPolicy = .preserve → t.err = s.err) ∧
      (s.cfg.wdtPolicy = .normalize → t.err = ⟨.watchdog, s.pc, ⟨0, 0, 0, 0, 0, 0, 0⟩⟩) ∧
      t.wdtHook = o.reqs.hook.getD s.wdtHook ∧ t.termReq = (s.termReq || o.reqs.stop) ∧
      t.jmpValid = (s.jmpValid || !o.reqs.jumps.isEmpty) ∧ t.jmpTarget = o.reqs.jumps.getLastD s.jmpTarget ∧
      (∀ off, t.mem.read off = (s.mem.read off).map fun b => (o.reqs.prog.lookup off).getD b) ∧
      t = { s with engState := .aborted, result := .fail, err := t.err, wdtHook := t.wdtHook,
                   termReq := t.termReq, jmpValid := t.jmpValid, jmpTarget := t.jmpTarget, mem := t.mem,
                   hookReplies := s.hookReplies.tail, hookCalls := s.hookCalls + 1 }

/-- A hook that calls `run` is refused and one that never returns leaves no next step (the spec's decision D25;
42_sequencer.md R160, 70_reset_and_hazards.md R256). -/
def Obligations.BrokenHookContractsStop : Prop :=
  ∀ (s : State) (hk : HookId), s.engState = .running → s.pc < s.totalLen → s.wdtHook = some hk →
    (s.hookReply hk = .calledRun → step s = .refused .reentrantRun) ∧
    (s.hookReply hk = .neverReturns → step s = .fault .callNeverReturned)

/-- Step b: a requested stop, be it the hook's of this cycle, clears TERM_REQ and halts the run with OK before
any fetch; a pending jump is not taken. -/
def Obligations.StopHaltsAtStepB : Prop :=
  ∀ s u : State, s.engState = .running → s.pc < s.totalLen → s.atStepB = some u → u.termReq = true →
    ∃ t, step s = .next t ∧ t = { u with termReq := false, engState := .halted, result := .ok } ∧
      t.pc = s.pc ∧ t.handlerCalls = s.handlerCalls

/-- Step c: an instruction whose length runs past TOTAL_LEN aborts with LENGTH, the current offset and a zero
snapshot, CUR written and no handler called; one that ends at TOTAL_LEN or before is decoded and run; where no
class claims the bytes the fault comes first, whatever is left of the program (42_sequencer.md R165). That the fault
is a next state rests on the spec's decisions D9 and D27 and log entry 9. -/
def Obligations.LengthAbortExactlyWhenPastEnd : Prop :=
  ∀ (s u : State) (op : Byte) (tail : List Byte), ReachesStepC s u → u.window = some (op :: tail) →
    (∀ c : Cur, resolve u.cfg op (op :: tail) = .resolved c →
      (u.totalLen < u.pc + c.len → ∃ t, step s = .next t ∧
        t = { u with engState := .aborted, result := .fail, cur := c,
                     err := ⟨.length, u.pc, ⟨0, 0, 0, 0, 0, 0, 0⟩⟩ }) ∧
      (u.pc + c.len ≤ u.totalLen →
        ∃ i rest, decode u.cfg (op :: tail) = .ok (i, rest) ∧ i.cur u.cfg = some c ∧ step s = exec i u)) ∧
    (resolve u.cfg op (op :: tail) = .undefined → ∃ t, step s = .next t ∧
      t = { u with engState := .faulted, faultReason := some .undefinedOpcode, faultPc := u.pc })

/-- The Faulted state has no way out (10_state.md R22). -/
def Obligations.FaultedHasNoWayOut : Prop :=
  ∀ s : State, s.engState = .faulted → step s = .fault .faulted

/-! ## The host's interfaces and reset -/

/-- Power-on: READY, no hook, no stop and no jump pending (the spec's decision D19; the other elements' values
are the model's choice, log entry 3, and not stated). -/
def Obligations.PowerOnState : Prop :=
  State.reset.engState = .ready ∧ State.reset.wdtHook = none ∧ State.reset.termReq = false ∧
    State.reset.jmpValid = false ∧ State.reset.mem = []

/-- Step 1 of a run, from READY, HALTED or ABORTED with the request at the head of the queue: what run start
writes, and that every other element keeps its value, WDT_HOOK included. -/
def Obligations.RunStartWrites : Prop :=
  ∀ (s : State) (prog : List Byte) (n : Nat) (reqs : List HostRequest),
    s.betweenRuns = true →
    s.hostReqs = .run prog n :: reqs → configFlaw s.cfg = none → n ≤ 2 ^ s.cfg.pcW - 1 → n ≤ prog.length →
    ∃ t, step s = .next t ∧ t.termReq = false ∧ t.pc = 0 ∧ t.err = ⟨.noError, 0, ⟨0, 0, 0, 0, 0, 0, 0⟩⟩ ∧
      t.jmpValid = false ∧ t.totalLen = n ∧ t.engState = .running ∧
      (∀ off, t.mem.read off = prog[off]?) ∧ t.hostReqs = reqs ∧
      t = { s with termReq := false, pc := 0, err := t.err, jmpValid := false, totalLen := n,
                   engState := .running, mem := t.mem, hostReqs := reqs }

/-- run is refused, by name, while a run is in progress, for EXT_BITS = 3 with COMPACT, for an illegal FIXED_LEN,
for a table that fails TABLE_WF (in a fixed-length build too), for a length PC_W bits do not hold, and for a length
that overstates the buffer (the spec's decisions D2, D7, D10, D25 and D30; the order of the checks is log entry 12). -/
def Obligations.RunRefusals : Prop :=
  ∀ (s : State) (prog : List Byte) (n : Nat),
    (s.engState = .running → s.hostRun prog n = .refused .reentrantRun) ∧
    (s.engState ≠ .running →
      (s.cfg.mode = .compact → s.cfg.extBits = 3 → s.hostRun prog n = .refused .paramIllegal) ∧
      (¬ (s.cfg.mode = .compact ∧ s.cfg.extBits = 3) → s.cfg.varlen = false →
        (∀ c, lenOf s.cfg.mode c ≠ some s.cfg.fixedLen) → s.hostRun prog n = .refused .fixedLenIllegal) ∧
      (¬ (s.cfg.mode = .compact ∧ s.cfg.extBits = 3) →
        (s.cfg.varlen = false → ∃ c, lenOf s.cfg.mode c = some s.cfg.fixedLen) → tableWf s.cfg = false →
        s.hostRun prog n = .refused .tableIllFormed) ∧
      (configFlaw s.cfg = none → 2 ^ s.cfg.pcW - 1 < n → s.hostRun prog n = .refused .paramIllegal) ∧
      (configFlaw s.cfg = none → n ≤ 2 ^ s.cfg.pcW - 1 → prog.length < n →
        s.hostRun prog n = .refused .lengthOverstatesBuffer))

/-- SETWDT, STOPREQ and JUMPREQ between runs write WDT_HOOK, TERM_REQ and the jump register and nothing else (the
spec's decisions D15 and D17). -/
def Obligations.HostControlRequests : Prop :=
  ∀ (s : State) (reqs : List HostRequest), s.betweenRuns = true →
    (∀ v, s.hostReqs = .setWatchdog v :: reqs →
      step s = .next { s with wdtHook := v, hostReqs := reqs }) ∧
    (s.hostReqs = .requestStop :: reqs → step s = .next { s with termReq := true, hostReqs := reqs }) ∧
    (∀ t, s.hostReqs = .requestJump t :: reqs →
      step s = .next { s with jmpValid := true, jmpTarget := t, hostReqs := reqs }) ∧
    (s.hostReqs = [] → step s = .next s)

/-- A stop and a jump requested between runs have no effect on the next run: the run that starts after them and
the run that starts without them agree at every step (the spec's decision D17). -/
def Obligations.RequestsOutsideARunAreDropped : Prop :=
  ∀ (s : State) (prog : List Byte) (n : Nat) (target : JumpTarget) (reqs : List HostRequest) (k : Nat),
    s.betweenRuns = true →
    SameOutcome
      (Sys2Proof.core.run (k + 3)
        { s with hostReqs := .requestStop :: .requestJump target :: .run prog n :: reqs })
      (Sys2Proof.core.run (k + 1) { s with hostReqs := .run prog n :: reqs })

/-- lastError: before any run it enters the Faulted state with UNWRITTEN_ERROR_RECORD; after a run it replies
with the error record and writes no element of the block. -/
def Obligations.LastErrorReadsTheRecord : Prop :=
  ∀ (s : State) (reqs : List HostRequest), s.hostReqs = .lastError :: reqs →
    (s.engState = .ready → step s = .next { s with engState := .faulted, hostReqs := reqs,
                                                   faultReason := some .unwrittenErrorRecord,
                                                   faultPc := s.pc }) ∧
    (s.engState = .halted ∨ s.engState = .aborted →
      step s = .next { s with lastErrorReply := some s.err, hostReqs := reqs })

/-- The numeric codes (the spec's decisions D3, D11, D12, D13 and D24), and codes 5 to 7 are no class tags. -/
def Obligations.NumericCodes : Prop :=
  (EngState.ready.code = 0 ∧ EngState.running.code = 1 ∧ EngState.halted.code = 2 ∧
    EngState.aborted.code = 3 ∧ EngState.faulted.code = 4) ∧
  (RunResult.ok.code = 0 ∧ RunResult.fail.code = 1) ∧
  (ErrKind.noError.code = 0 ∧ ErrKind.length.code = 1 ∧ ErrKind.handler.code = 2 ∧
    ErrKind.boundsAnomaly.code = 3 ∧ ErrKind.invalidJump.code = 4 ∧ ErrKind.watchdog.code = 5) ∧
  (respCode .ok = 0 ∧ respCode .error = 1 ∧ respCode .endRun = 2 ∧ respCode .reset = 3) ∧
  ∀ code : BitVec 3, LenClass.ofCode code =
    if code = 0 then some .noOperand else if code = 1 then some .narrow else if code = 2 then some .single
    else if code = 3 then some .dual else if code = 4 then some .dualExt else none

/-- What the host reads: ENG_STATE outside FAULTED, the error record once a run has started and outside FAULTED,
RESULT after a run; every such output is a free value elsewhere: the record in READY, where it is unwritten
(10_state.md R40, R44), RESULT before a run has ended, and all of them in FAULTED (the spec's decisions D19, D24 and
D27; log entry 19). -/
def Obligations.HostReadsStateResultAndRecord : Prop :=
  ∀ s : State,
    (s.engState ≠ .faulted → s.visibleEngState = s.engState.code) ∧
    (s.engState = .faulted → s.visibleEngState = Config.freeEngState (s.handlerCalls + s.hookCalls)) ∧
    (s.engState = .running ∨ s.engState = .halted ∨ s.engState = .aborted →
      s.visibleErrKind = s.err.kind.code ∧ s.visibleErrAddr = s.err.addr ∧ s.visibleErrSnap = s.err.snap) ∧
    (s.engState = .ready ∨ s.engState = .faulted →
      s.visibleErrKind = Config.freeErrKind (s.handlerCalls + s.hookCalls) ∧
      s.visibleErrAddr = Config.freeErrAddr (s.handlerCalls + s.hookCalls) ∧
      s.visibleErrSnap = Config.freeErrSnap (s.handlerCalls + s.hookCalls)) ∧
    (s.engState = .halted ∨ s.engState = .aborted → s.visibleResult = s.result.code) ∧
    (s.engState = .ready ∨ s.engState = .running ∨ s.engState = .faulted →
      s.visibleResult = Config.freeResult (s.handlerCalls + s.hookCalls))

/-! ## Invariants and whole-machine rules -/

/-- The invariant holds of the power-on state. The values of PC, TOTAL_LEN, the error record, REC and CUR there are
the model's choice (log entry 3), and so is the build (log entry 2): 10_state.md R40 leaves them open. -/
def Obligations.ResetMeetsTheInvariant : Prop := Inv State.reset

/-- Every step of a state that meets the invariant gives a state that meets it. -/
def Obligations.StepKeepsTheInvariant : Prop :=
  ∀ s t : State, Inv s → step s = .next t → Inv t

/-- No step changes a build parameter (10_state.md R35). -/
def Obligations.StepKeepsTheConfiguration : Prop :=
  ∀ s t : State, step s = .next t → t.cfg = s.cfg

/-- Nothing writes TOTAL_LEN during a run (the spec's decision D33, 10_state.md R24). -/
def Obligations.TotalLenFixedDuringARun : Prop :=
  ∀ s t : State, s.engState = .running → step s = .next t → t.totalLen = s.totalLen

/-- ENG_STATE changes only as 10_state.md R22 lists, and by the fault of reading the error record before the
first run (log entry 10). -/
def Obligations.EngStateTransitionsAreLegal : Prop :=
  ∀ s t : State, step s = .next t → legalTransition s.engState t.engState = true

/-- WDT_HOOK changes only by `setWatchdog`: between runs by the host's request, in a run by one in the reply of this
cycle's hook call, or of the handler call of the instruction that this cycle decoded. -/
def Obligations.OnlySetWatchdogWritesTheHook : Prop :=
  ∀ s t : State, step s = .next t → t.wdtHook ≠ s.wdtHook →
    (s.betweenRuns = true ∧ ∃ reqs, s.hostReqs = .setWatchdog t.wdtHook :: reqs) ∨
    (s.engState = .running ∧ s.pc < s.totalLen ∧
      ∃ hk o, s.wdtHook = some hk ∧ s.hookReply hk = .returned o ∧ o.reqs.hook = some t.wdtHook) ∨
    ∃ u bytes rest i c r o, ReachesStepC s u ∧ u.window = some bytes ∧ decode u.cfg bytes = .ok (i, rest) ∧
      Dispatches i u c r o ∧ o.reqs.hook = some t.wdtHook

/-- A pending jump never reaches another cycle of the run: a cycle after which the run goes on leaves no jump
pending (10_state.md R25, 90_conflicts.md C6). -/
def Obligations.NoJumpOutlivesItsCycle : Prop :=
  ∀ s t : State, s.engState = .running → step s = .next t → t.engState = .running → t.jmpValid = false

/-- The error record is written by run start and by aborts only (10_state.md R21). -/
def Obligations.OnlyRunStartAndAbortsWriteTheErrorRecord : Prop :=
  ∀ s t : State, step s = .next t → t.err ≠ s.err →
    (s.engState = .running ∧ t.engState = .aborted ∧ t.result = .fail ∧ t.err.addr = s.pc) ∨
    (s.engState ≠ .running ∧ t.engState = .running ∧ t.err = .clear)

/-- The termination bound: along any run from its start the number of handler calls is at most
(redirections + 1) · TOTAL_LEN, a redirection being a cycle that goes on anywhere but past its instruction (the
spec's derivation in 42_sequencer.md R188). -/
def Obligations.HandlerCallsAreBounded : Prop :=
  ∀ (s t : State) (calls redirects : Nat), Inv s → s.engState = .running → s.pc = 0 →
    RunPath s t calls redirects → calls ≤ (redirects + 1) * s.totalLen

/-- Clean restart: from any two states between runs that have the same build, hook and outside world, whatever
else an earlier run left in them, the next run of the same program goes the same way at every step, and the
host's later requests are served alike (the spec's derivation in 42_sequencer.md R189). -/
def Obligations.CleanRestart : Prop :=
  ∀ (s s' : State) (prog : List Byte) (n : Nat) (reqs : List HostRequest) (k : Nat),
    s.betweenRuns = true → s'.betweenRuns = true → s.cfg = s'.cfg → s.wdtHook = s'.wdtHook →
    s.hostReqs = .run prog n :: reqs → s'.hostReqs = .run prog n :: reqs →
    s.handlerReplies = s'.handlerReplies → s.hookReplies = s'.hookReplies →
    s.handlerCalls = s'.handlerCalls → s.hookCalls = s'.hookCalls →
    SameOutcome (Sys2Proof.core.run (k + 1) s) (Sys2Proof.core.run (k + 1) s')

/-- The step that clean restart and the dropped requests rest on: two states that agree on all that a run can
depend on step to states that agree, or stop alike; what REC, CUR, a stale JMP_TARGET, a RESULT without meaning and an
earlier LASTERR reply hold is never read (the spec's derivations in 42_sequencer.md R189 and 10_state.md R34; where
handler and hook replies come from is log entry 4). -/
def Obligations.StepDependsOnNothingLeftOver : Prop :=
  ∀ s t : State, SameRun s t → SameOutcome (step s) (step t)

/-- The empty program: `run(prog, 0)` halts with OK and a cleared record after one loop test, and calls neither
the hook nor a handler (the spec's derivation in 42_sequencer.md R190). -/
def Obligations.EmptyProgramHalts : Prop :=
  ∀ (s : State) (prog : List Byte) (reqs : List HostRequest), s.betweenRuns = true →
    s.hostReqs = .run prog 0 :: reqs → configFlaw s.cfg = none →
    ∃ u, Sys2Proof.core.run 2 s = .next u ∧ u.engState = .halted ∧ u.result = .ok ∧ u.pc = 0 ∧
      u.err = ⟨.noError, 0, ⟨0, 0, 0, 0, 0, 0, 0⟩⟩ ∧ u.handlerCalls = s.handlerCalls ∧
      u.hookCalls = s.hookCalls
end

