-- ==== Sys2Proof/Laws/Resolve.lean ====
section
/-! SUPPORT. The laws of folding, table lookup and length resolution. -/

namespace Sys2Proof

/-! ### Folding -/

theorem foldBit_getLsbD (e : Fin 4) (c : LenClass) (k : Nat) (h : Bool) (j : Nat) :
    (foldBit e c k h).getLsbD j =
      (decide (k ≤ e.val) && c.hasType k && h && decide (j = 7 + k) && decide (7 + k < 11)) := by
  unfold foldBit
  split
  · rename_i hk
    simp only [BitVec.getLsbD_twoPow, hk.1, hk.2.1, hk.2.2, decide_true, Bool.true_and]
    by_cases hj : j = 7 + k
    · subst hj; simp
    · simp [hj, Ne.symm hj]
  · rename_i hk
    simp only [BitVec.ofNat_eq_ofNat, BitVec.getLsbD_zero, Bool.false_eq, Bool.and_eq_false_iff]
    by_cases h1 : k ≤ e.val
    · by_cases h2 : c.hasType k = true
      · by_cases h3 : h = true
        · exact absurd ⟨h1, h2, h3⟩ hk
        · simp [h3]
      · simp [h2]
    · simp [h1]

theorem foldIndex_getLsbD (e : Fin 4) (c : LenClass) (op : Byte) (h1 h2 h3 : Bool) (j : Nat) :
    (foldIndex e c op h1 h2 h3).getLsbD j =
      (op.getLsbD j ||
        ((decide (1 ≤ e.val) && c.hasType 1 && h1 && decide (j = 8)) ||
         (decide (2 ≤ e.val) && c.hasType 2 && h2 && decide (j = 9)) ||
         (decide (3 ≤ e.val) && c.hasType 3 && h3 && decide (j = 10)))) := by
  unfold foldIndex
  simp only [BitVec.getLsbD_or, foldBit_getLsbD, BitVec.getLsbD_setWidth]
  by_cases hj : j < 8
  · simp [show j < 11 by omega, show j ≠ 8 by omega, show j ≠ 9 by omega, show j ≠ 10 by omega]
  · simp [BitVec.getLsbD_of_ge op j (by omega), Bool.or_assoc]

/-- The folded index keeps the opcode byte in bits 7..0. -/
theorem foldIndex_setWidth (e : Fin 4) (c : LenClass) (op : Byte) (h1 h2 h3 : Bool) :
    (foldIndex e c op h1 h2 h3).setWidth 8 = op := by
  apply BitVec.eq_of_getLsbD_eq
  intro j hj
  simp [foldIndex_getLsbD, hj, show j ≠ 8 by omega, show j ≠ 9 by omega,
    show j ≠ 10 by omega]

/-- The folded index has IDX_W bits. -/
theorem foldIndex_lt (e : Fin 4) (c : LenClass) (op : Byte) (h1 h2 h3 : Bool) :
    (foldIndex e c op h1 h2 h3).toNat < 256 * 2 ^ e.val := by
  rw [show 256 * 2 ^ e.val = 2 ^ (8 + e.val) by rw [Nat.pow_add]]
  apply Nat.lt_pow_two_of_testBit
  intro j hj
  rw [BitVec.testBit_toNat, foldIndex_getLsbD, BitVec.getLsbD_of_ge op j (by omega)]
  by_cases j8 : j = 8
  · simp [j8, show ¬ 1 ≤ e.val by omega]
  · by_cases j9 : j = 9
    · simp [j9, show ¬ 2 ≤ e.val by omega]
    · by_cases j10 : j = 10
      · simp [j10, show ¬ 3 ≤ e.val by omega]
      · simp [j8, j9, j10]

/-- The index of a class depends only on the type bits the class has. -/
theorem foldIndex_congr {c : LenClass} {h1 h2 h3 h1' h2' h3' : Bool} (e : Fin 4) (op : Byte)
    (a1 : c.hasType 1 = true → h1 = h1') (a2 : c.hasType 2 = true → h2 = h2')
    (a3 : c.hasType 3 = true → h3 = h3') :
    foldIndex e c op h1 h2 h3 = foldIndex e c op h1' h2' h3' := by
  apply BitVec.eq_of_getLsbD_eq
  intro j _
  simp only [foldIndex_getLsbD]
  have b1 : (c.hasType 1 && h1) = (c.hasType 1 && h1') := by
    cases hc : c.hasType 1 with
    | false => rfl
    | true => rw [a1 hc]
  have b2 : (c.hasType 2 && h2) = (c.hasType 2 && h2') := by
    cases hc : c.hasType 2 with
    | false => rfl
    | true => rw [a2 hc]
  have b3 : (c.hasType 3 && h3) = (c.hasType 3 && h3') := by
    cases hc : c.hasType 3 with
    | false => rfl
    | true => rw [a3 hc]
  simp only [Bool.and_assoc] at *
  simp only [← Bool.and_assoc (c.hasType 1), ← Bool.and_assoc (c.hasType 2), ← Bool.and_assoc (c.hasType 3),
    b1, b2, b3]

/-- Without type bits the index is the opcode byte. -/
theorem foldIndex_of_no_bits {e : Fin 4} {c : LenClass} {h1 h2 h3 : Bool} (op : Byte)
    (a1 : (decide (1 ≤ e.val) && c.hasType 1 && h1) = false)
    (a2 : (decide (2 ≤ e.val) && c.hasType 2 && h2) = false)
    (a3 : (decide (3 ≤ e.val) && c.hasType 3 && h3) = false) :
    foldIndex e c op h1 h2 h3 = op.setWidth 11 := by
  apply BitVec.eq_of_getLsbD_eq
  intro j hj
  simp only [foldIndex_getLsbD, a1, a2, a3, Bool.false_and, Bool.or_false, BitVec.getLsbD_setWidth, hj,
    decide_true, Bool.true_and]

/-! ### Classes and lengths -/

theorem lenOf_bounds {m : Mode} {c : LenClass} {n : Nat} (h : lenOf m c = some n) : 1 ≤ n ∧ n ≤ maxLen := by
  cases m <;> cases c <;> cases h <;> decide

theorem mem_classesOf {m : Mode} {c : LenClass} : c ∈ classesOf m ↔ ∃ n, lenOf m c = some n := by
  cases m <;> cases c <;> simp [classesOf, lenOf]

theorem typeOffset_lt_len {m : Mode} {c : LenClass} {k off n : Nat} (hc : c.hasType k = true)
    (ho : typeOffset m k = some off) (hn : lenOf m c = some n) : off < n := by
  have hk : k = 1 ∨ k = 2 ∨ k = 3 := by
    cases c <;> simp [LenClass.hasType] at hc <;> omega
  rcases hk with rfl | rfl | rfl <;> cases m <;> cases c <;> simp_all [typeOffset, lenOf, LenClass.hasType] <;>
    omega

theorem hasType_three_extended {m : Mode} {c : LenClass} {n : Nat} (hc : c.hasType 3 = true)
    (hn : lenOf m c = some n) : m = .extended ∧ c = .dualExt := by
  cases m <;> cases c <;> simp_all [lenOf, LenClass.hasType]

theorem fixedClass_some {cfg : Config} {c : LenClass} (h : fixedClass cfg = some c) :
    lenOf cfg.mode c = some cfg.fixedLen := by
  have := List.find?_some h
  simpa using this

/-! ### Table entries and candidates -/

/-- What a consistent candidate is. -/
theorem entryFor_eq_some {cfg : Config} {op : Byte} {h1 h2 h3 : Bool} {c : LenClass} {cur : Cur} :
    entryFor cfg op h1 h2 h3 c = some cur ↔
      cur.cls = c ∧ cur.idx = foldIndex cfg.extBits c op h1 h2 h3 ∧ lenOf cfg.mode c = some cur.len ∧
      tableLookup cfg.table cur.idx = some (cur.handler, c) := by
  unfold entryFor
  constructor
  · intro h
    split at h
    · rename_i hd c' len hl hn
      split at h
      · rename_i hc
        cases h
        subst hc
        exact ⟨rfl, rfl, hn, hl⟩
      · cases h
    · cases h
  · rintro ⟨rfl, hi, hn, hl⟩
    rw [hi] at hl
    rw [hl, hn]
    simp only [if_true]
    rw [← hi]

/-- A class is consistent under type bits or not by the bits it has alone. -/
theorem entryFor_congr {cfg : Config} {c : LenClass} {h1 h2 h3 h1' h2' h3' : Bool} (op : Byte)
    (a1 : c.hasType 1 = true → h1 = h1') (a2 : c.hasType 2 = true → h2 = h2')
    (a3 : c.hasType 3 = true → h3 = h3') :
    entryFor cfg op h1 h2 h3 c = entryFor cfg op h1' h2' h3' c := by
  unfold entryFor
  rw [foldIndex_congr cfg.extBits op a1 a2 a3]

theorem mem_bitVectors (h1 h2 h3 : Bool) : (h1, h2, h3) ∈ bitVectors := by
  cases h1 <;> cases h2 <;> cases h3 <;> decide

/-- TABLE_WF (2), read for one byte and one vector of type bits. -/
theorem atMostOneClass_iff {cfg : Config} :
    atMostOneClass cfg = true ↔ ∀ (op : Byte) (h1 h2 h3 : Bool),
      ((classesOf cfg.mode).filterMap (entryFor cfg op h1 h2 h3)).length ≤ 1 := by
  unfold atMostOneClass
  simp only [List.all_eq_true, List.mem_range, decide_eq_true_eq]
  constructor
  · intro h op h1 h2 h3
    have := h op.toNat op.isLt (h1, h2, h3) (mem_bitVectors h1 h2 h3)
    rwa [BitVec.ofNat_toNat, BitVec.setWidth_eq] at this
  · intro h b _ t _
    exact h _ _ _ _

theorem tableWf_one {cfg : Config} (h : tableWf cfg = true) : atMostOneClass cfg = true := by
  unfold tableWf at h
  exact (Bool.and_eq_true_iff.1 h).2

theorem configFlaw_none {cfg : Config} (h : configFlaw cfg = none) :
    tableWf cfg = true ∧ (cfg.varlen = false → ∃ c, fixedClass cfg = some c) := by
  unfold configFlaw at h
  split at h
  · cases h
  · split at h
    · cases h
    · rename_i hf
      split at h
      · rename_i hw
        refine ⟨hw, fun hv => ?_⟩
        cases hc : fixedClass cfg with
        | none => exact absurd ⟨hv, hc⟩ hf
        | some c => exact ⟨c, rfl⟩
      · cases h

/-- A list of at most one element that holds `a` is `[a]`. -/
theorem eq_singleton_of_mem {α : Type} {l : List α} {a : α} (ha : a ∈ l) (hl : l.length ≤ 1) : l = [a] := by
  match l, hl with
  | [], _ => cases ha
  | [b], _ => rw [List.mem_singleton.1 ha]
  | _ :: _ :: _, h => simp at h

/-! ### Resolution -/

/-- What a resolved class is, in a build of either kind. -/
theorem resolve_resolved {cfg : Config} {op : Byte} {w : List Byte} {c : Cur}
    (h : resolve cfg op w = .resolved c) :
    lenOf cfg.mode c.cls = some c.len ∧
    c.idx = foldIndex cfg.extBits c.cls op (typeBit cfg.mode w 1) (typeBit cfg.mode w 2) (typeBit cfg.mode w 3) ∧
    (∃ tag, tableLookup cfg.table c.idx = some (c.handler, tag)) ∧
    (cfg.varlen = true → entryFor cfg op (typeBit cfg.mode w 1) (typeBit cfg.mode w 2) (typeBit cfg.mode w 3)
      c.cls = some c) ∧
    (cfg.varlen = false → fixedClass cfg = some c.cls ∧
      fixedEntry cfg op (typeBit cfg.mode w 1) (typeBit cfg.mode w 2) (typeBit cfg.mode w 3) c.cls = some c) := by
  unfold resolve at h
  split at h
  · rename_i hv
    split at h
    · cases h
    · rename_i c' hc
      cases h
      have hm : c ∈ candidates cfg op w := by rw [hc]; exact List.mem_singleton.2 rfl
      obtain ⟨cls, _, he⟩ := List.mem_filterMap.1 hm
      obtain ⟨rfl, hi, hn, hl⟩ := entryFor_eq_some.1 he
      exact ⟨hn, hi, ⟨_, hl⟩, fun _ => he, fun hf => absurd (hv.symm.trans hf) (by simp)⟩
    · cases h
  · rename_i hv
    split at h
    · cases h
    · rename_i cls hf
      split at h
      · cases h
      · rename_i cur he
        cases h
        have he' := he
        unfold fixedEntry at he
        obtain ⟨e, hl, rfl⟩ := Option.map_eq_some_iff.1 he
        refine ⟨fixedClass_some hf, rfl, ⟨e.2, hl⟩, fun hv' => absurd hv' hv, fun _ => ⟨hf, he'⟩⟩

/-- In a build of variable length whose table passes TABLE_WF, a consistent class is the resolved one. -/
theorem resolve_of_entryFor {cfg : Config} {op : Byte} {w : List Byte} {c : Cur} (hv : cfg.varlen = true)
    (hw : atMostOneClass cfg = true)
    (h : entryFor cfg op (typeBit cfg.mode w 1) (typeBit cfg.mode w 2) (typeBit cfg.mode w 3) c.cls = some c) :
    resolve cfg op w = .resolved c := by
  have hm : c ∈ candidates cfg op w := by
    obtain ⟨_, _, hn, _⟩ := entryFor_eq_some.1 h
    exact List.mem_filterMap.2 ⟨c.cls, mem_classesOf.2 ⟨_, hn⟩, h⟩
  have hl := (atMostOneClass_iff.1 hw) op (typeBit cfg.mode w 1) (typeBit cfg.mode w 2) (typeBit cfg.mode w 3)
  unfold resolve
  rw [if_pos hv, eq_singleton_of_mem hm hl]

theorem resolve_of_fixedEntry {cfg : Config} {op : Byte} {w : List Byte} {c : Cur} {cls : LenClass}
    (hv : cfg.varlen = false) (hf : fixedClass cfg = some cls)
    (h : fixedEntry cfg op (typeBit cfg.mode w 1) (typeBit cfg.mode w 2) (typeBit cfg.mode w 3) cls = some c) :
    resolve cfg op w = .resolved c := by
  unfold resolve
  rw [if_neg (by simp [hv]), hf]
  simp only [h]

/-- The decode result has a length of 1 to 16 bytes and an index of IDX_W bits. -/
theorem resolve_bounds {cfg : Config} {op : Byte} {w : List Byte} {c : Cur} (h : resolve cfg op w = .resolved c) :
    1 ≤ c.len ∧ c.len ≤ maxLen ∧ c.idx.toNat < nOps cfg := by
  obtain ⟨hn, hi, -⟩ := resolve_resolved h
  exact ⟨(lenOf_bounds hn).1, (lenOf_bounds hn).2, hi ▸ foldIndex_lt _ _ _ _ _ _⟩

/-! ### The gated type bits -/

theorem typeOffset_le {m : Mode} {k off : Nat} (h : typeOffset m k = some off) : off ≤ 11 := by
  unfold typeOffset at h
  split at h <;> cases h <;> omega

/-- Resolution reads nothing past the first 16 bytes. -/
theorem typeBit_take (m : Mode) (w : List Byte) (k : Nat) : typeBit m (w.take 16) k = typeBit m w k := by
  unfold typeBit
  cases h : typeOffset m k with
  | none => rfl
  | some off =>
    have hoff := typeOffset_le h
    simp only [List.getElem?_take, if_pos (show off < 16 by omega)]

theorem resolve_take (cfg : Config) (op : Byte) (w : List Byte) : resolve cfg op (w.take 16) = resolve cfg op w := by
  unfold resolve candidates
  simp only [typeBit_take]

/-! ### A handier table check, equal to TABLE_WF -/

/-- The base bytes that some slot of the table has. -/
def usedBytes (table : List (Nat × Slot)) : List Nat := table.map fun e => e.1 % 256

/-- TABLE_WF looking only at the base bytes and indices that the table uses. -/
def tableWfFast (cfg : Config) : Bool :=
  (match cfg.mode with
   | .extended => true
   | .compact => (cfg.table.map Prod.fst).all fun i =>
      if i < nOps cfg then ((tableLookup cfg.table (BitVec.ofNat 11 i)).map Prod.snd) != some .dualExt else true) &&
  (usedBytes cfg.table).all fun b => bitVectors.all fun t =>
    decide (((classesOf cfg.mode).filterMap (entryFor cfg (BitVec.ofNat 8 b) t.1 t.2.1 t.2.2)).length ≤ 1)

theorem lookup_some_mem {table : List (Nat × Slot)} {i : Nat} {s : Slot} (h : table.lookup i = some s) :
    i ∈ table.map Prod.fst := by
  induction table with
  | nil => cases h
  | cons e table ih =>
    obtain ⟨a, b⟩ := e
    rw [List.lookup_cons] at h
    cases hia : i == a with
    | true => rw [eq_of_beq hia]; simp
    | false =>
      rw [hia] at h
      exact List.mem_cons_of_mem _ (ih h)

theorem tableLookup_some_mem {table : List (Nat × Slot)} {idx : OpIndex} {e : HandlerId × LenClass}
    (h : tableLookup table idx = some e) : idx.toNat ∈ table.map Prod.fst := by
  unfold tableLookup at h
  split at h
  · cases h
  · rename_i slot hs
    exact lookup_some_mem hs

theorem nOps_le (cfg : Config) : nOps cfg ≤ 2048 := by
  unfold nOps
  have : 2 ^ cfg.extBits.val ≤ 2 ^ 3 := Nat.pow_le_pow_right (by omega) (by omega)
  omega

theorem foldIndex_mod (e : Fin 4) (c : LenClass) (op : Byte) (h1 h2 h3 : Bool) :
    (foldIndex e c op h1 h2 h3).toNat % 256 = op.toNat := by
  have := congrArg BitVec.toNat (foldIndex_setWidth e c op h1 h2 h3)
  simpa using this

theorem tableWf_eq_fast (cfg : Config) : tableWf cfg = tableWfFast cfg := by
  rw [Bool.eq_iff_iff]
  unfold tableWf tableWfFast noDualExtInCompact
  rw [Bool.and_eq_true_iff, Bool.and_eq_true_iff]
  apply and_congr
  · cases cfg.mode with
    | extended => simp
    | compact =>
      simp only [List.all_eq_true, List.mem_range]
      constructor
      · intro h i _
        split
        · rename_i hi; exact h i hi
        · rfl
      · intro h i hi
        cases hl : tableLookup cfg.table (BitVec.ofNat 11 i) with
        | none => rfl
        | some e =>
          have hm := tableLookup_some_mem hl
          have hlt : i < 2 ^ 11 := Nat.lt_of_lt_of_le hi (nOps_le cfg)
          rw [BitVec.toNat_ofNat, Nat.mod_eq_of_lt hlt] at hm
          have := h i hm
          rwa [if_pos hi, hl] at this
  · rw [atMostOneClass_iff]
    simp only [List.all_eq_true, decide_eq_true_eq]
    constructor
    · intro h b _ t _
      exact h _ _ _ _
    · intro h op h1 h2 h3
      by_cases hb : op.toNat ∈ usedBytes cfg.table
      · have := h op.toNat hb (h1, h2, h3) (mem_bitVectors h1 h2 h3)
        rwa [BitVec.ofNat_toNat, BitVec.setWidth_eq] at this
      · have hnone : (classesOf cfg.mode).filterMap (entryFor cfg op h1 h2 h3) = [] := by
          rw [List.filterMap_eq_nil_iff]
          intro c _
          cases he : entryFor cfg op h1 h2 h3 c with
          | none => rfl
          | some cur =>
            obtain ⟨_, hi, _, hl⟩ := entryFor_eq_some.1 he
            refine absurd ?_ hb
            obtain ⟨e, hem, hee⟩ := List.mem_map.1 (tableLookup_some_mem hl)
            refine List.mem_map.2 ⟨e, hem, ?_⟩
            rw [hee, hi, foldIndex_mod]
        rw [hnone]
        exact Nat.zero_le _

/-- The configuration check by the handier table check. -/
theorem configFlaw_eq_fast (cfg : Config) : configFlaw cfg =
    if cfg.mode = .compact ∧ cfg.extBits = 3 then some .paramIllegal
    else if cfg.varlen = false ∧ fixedClass cfg = none then some .fixedLenIllegal
    else if tableWfFast cfg then none
    else some .tableIllFormed := by
  rw [configFlaw, tableWf_eq_fast]

end Sys2Proof
end

