-- ==== Sys2Proof/Laws/Decode.lean ====
section
/-! SUPPORT. The laws of byte order, parsing, decoding and encoding. -/

namespace Sys2Proof

/-! ### Byte order -/

theorem shiftLeft_or_eq_add (a b n : Nat) (h : a < 2 ^ n) : a ||| (b * 2 ^ n) = a + b * 2 ^ n := by
  rw [Nat.or_comm, Nat.mul_comm, ← Nat.two_pow_add_eq_or_of_lt h, Nat.add_comm]

theorem le16_toNat (b0 b1 : Byte) : (le16 b0 b1).toNat = b0.toNat + 256 * b1.toNat := by
  have h0 := b0.isLt
  have h1 := b1.isLt
  unfold le16
  rw [BitVec.toNat_or, BitVec.toNat_shiftLeft, BitVec.toNat_setWidth, BitVec.toNat_setWidth,
    Nat.mod_eq_of_lt (by omega), Nat.mod_eq_of_lt (by omega), Nat.shiftLeft_eq, Nat.mod_eq_of_lt (by omega),
    shiftLeft_or_eq_add _ _ 8 h0]
  omega

theorem le32_toNat (b0 b1 b2 b3 : Byte) : (le32 b0 b1 b2 b3).toNat =
    b0.toNat + 256 * b1.toNat + 65536 * b2.toNat + 16777216 * b3.toNat := by
  have h0 := b0.isLt
  have h1 := b1.isLt
  have h2 := b2.isLt
  have h3 := b3.isLt
  unfold le32
  rw [BitVec.toNat_or, BitVec.toNat_shiftLeft, BitVec.toNat_setWidth, BitVec.toNat_setWidth, le16_toNat,
    le16_toNat, Nat.mod_eq_of_lt (by omega), Nat.mod_eq_of_lt (by omega), Nat.shiftLeft_eq,
    Nat.mod_eq_of_lt (by omega), shiftLeft_or_eq_add _ _ 16 (by omega)]
  omega

theorem le16_bytes (v : Half) : le16 (v.extractLsb' 0 8) (v.extractLsb' 8 8) = v := by
  apply BitVec.eq_of_toNat_eq
  have := v.isLt
  rw [le16_toNat]
  simp only [BitVec.extractLsb'_toNat, Nat.shiftRight_eq_div_pow]
  omega

theorem le32_bytes (v : Wide) : le32 (v.extractLsb' 0 8) (v.extractLsb' 8 8) (v.extractLsb' 16 8)
    (v.extractLsb' 24 8) = v := by
  apply BitVec.eq_of_toNat_eq
  have := v.isLt
  rw [le32_toNat]
  simp only [BitVec.extractLsb'_toNat, Nat.shiftRight_eq_div_pow]
  omega

theorem bytes16_le16 (b0 b1 : Byte) : bytes16 (le16 b0 b1) = [b0, b1] := by
  have h0 := b0.isLt
  have h1 := b1.isLt
  unfold bytes16
  congr 1
  · apply BitVec.eq_of_toNat_eq
    simp only [BitVec.extractLsb'_toNat, Nat.shiftRight_eq_div_pow, le16_toNat]
    omega
  · congr 1
    apply BitVec.eq_of_toNat_eq
    simp only [BitVec.extractLsb'_toNat, Nat.shiftRight_eq_div_pow, le16_toNat]
    omega

theorem bytes32_le32 (b0 b1 b2 b3 : Byte) : bytes32 (le32 b0 b1 b2 b3) = [b0, b1, b2, b3] := by
  have h0 := b0.isLt
  have h1 := b1.isLt
  have h2 := b2.isLt
  have h3 := b3.isLt
  have e : ∀ {x y : Byte}, x.toNat = y.toNat → x = y := BitVec.eq_of_toNat_eq
  unfold bytes32
  rw [e (x := (le32 b0 b1 b2 b3).extractLsb' 0 8) (y := b0), e (x := (le32 b0 b1 b2 b3).extractLsb' 8 8) (y := b1),
    e (x := (le32 b0 b1 b2 b3).extractLsb' 16 8) (y := b2), e (x := (le32 b0 b1 b2 b3).extractLsb' 24 8) (y := b3)]
  all_goals
    simp only [BitVec.extractLsb'_toNat, Nat.shiftRight_eq_div_pow, le32_toNat]
    omega

/-! ### Layouts -/

/-- A build that has the layout has its class, and the layout's bytes are the class's length. -/
theorem Layout.lenOf_of_fits {b : Layout} {m : Mode} (h : b.fitsMode m = true) :
    lenOf m b.cls = some (b.bytes.length + 1) := by
  cases b <;> cases m <;> first | rfl | cases h

/-- Parsing a layout's own bytes gives it back, with what follows. -/
theorem parseLayout_bytes {b : Layout} {m : Mode} (rest : List Byte) (h : b.fitsMode m = true) :
    parseLayout m b.cls (b.bytes ++ rest) = some (b, rest) := by
  cases b <;> cases m <;>
    first
    | rfl
    | (cases h; done)
    | simp [Layout.cls, Layout.bytes, bytes16, bytes32, parseLayout, le16_bytes, le32_bytes]

/-- What parsing gives: a layout of the class and the build, whose bytes are those that were read. -/
theorem parseLayout_some {m : Mode} {c : LenClass} {tail rest : List Byte} {b : Layout}
    (h : parseLayout m c tail = some (b, rest)) :
    b.cls = c ∧ b.fitsMode m = true ∧ b.bytes ++ rest = tail := by
  unfold parseLayout at h
  split at h <;> cases h <;> refine ⟨rfl, ?_, ?_⟩ <;>
    first
    | rfl
    | simp [Layout.bytes, bytes16_le16, bytes32_le32]

/-- Parsing succeeds when there are as many bytes as the class is long. -/
theorem parseLayout_total {m : Mode} {c : LenClass} {n : Nat} {tail : List Byte} (hn : lenOf m c = some n)
    (hl : n ≤ tail.length + 1) : ∃ b rest, parseLayout m c tail = some (b, rest) := by
  cases m <;> cases c <;> cases hn
  case compact.noOperand => exact ⟨_, _, rfl⟩
  case extended.noOperand => exact ⟨_, _, rfl⟩
  case compact.narrow => match tail, hl with | _ :: _, _ => exact ⟨_, _, rfl⟩
  case extended.narrow => match tail, hl with | _ :: _, _ => exact ⟨_, _, rfl⟩
  case compact.single => match tail, hl with | _ :: _ :: _ :: _, _ => exact ⟨_, _, rfl⟩
  case compact.dual =>
    match tail, hl with | _ :: _ :: _ :: _ :: _ :: _ :: _ :: _, _ => exact ⟨_, _, rfl⟩
  case extended.single => match tail, hl with | _ :: _ :: _ :: _ :: _ :: _, _ => exact ⟨_, _, rfl⟩
  case extended.dual =>
    match tail, hl with | _ :: _ :: _ :: _ :: _ :: _ :: _ :: _ :: _ :: _ :: _, _ => exact ⟨_, _, rfl⟩
  case extended.dualExt =>
    match tail, hl with
    | _ :: _ :: _ :: _ :: _ :: _ :: _ :: _ :: _ :: _ :: _ :: _ :: _ :: _ :: _ :: _, _ => exact ⟨_, _, rfl⟩

/-- The type bits that the length phase reads in a layout's bytes are the layout's own. -/
theorem typeBit_layout {b : Layout} {m : Mode} (op : Byte) (rest : List Byte) (k : Nat)
    (hf : b.fitsMode m = true) (hk : b.cls.hasType k = true) :
    typeBit m (op :: (b.bytes ++ rest)) k = b.typeHigh k := by
  have h3 : k = 1 ∨ k = 2 ∨ k = 3 := by
    cases b <;> simp [Layout.cls, LenClass.hasType] at hk <;> omega
  rcases h3 with rfl | rfl | rfl <;> cases b <;> cases m <;>
    first
    | rfl
    | (cases hf; done)
    | simp [Layout.cls, LenClass.hasType] at hk

/-! ### The instruction of a layout -/

theorem instrOfLayout_format {cfg : Config} (op : Byte) (b : Layout) :
    (instrOfLayout cfg op b).format = some (op, b) := by
  unfold instrOfLayout
  cases cfg.varlen <;> cases cfg.mode <;> cases b <;> rfl

theorem instrOfLayout_cur_varlen {cfg : Config} {op : Byte} {b : Layout} (hv : cfg.varlen = true)
    (hf : b.fitsMode cfg.mode = true) :
    (instrOfLayout cfg op b).cur cfg =
      entryFor cfg op (b.typeHigh 1) (b.typeHigh 2) (b.typeHigh 3) b.cls := by
  unfold instrOfLayout
  rw [if_pos hv]
  cases hm : cfg.mode <;> rw [hm] at hf <;> cases b <;>
    first
    | (cases hf; done)
    | (simp only [Instr.cur, entryOfLayout]; rw [if_pos ⟨hv, hm, rfl⟩])

theorem instrOfLayout_cur_fixed {cfg : Config} {op : Byte} {b : Layout} (hv : cfg.varlen = false)
    (hf : b.fitsMode cfg.mode = true) (hc : fixedClass cfg = some b.cls) :
    (instrOfLayout cfg op b).cur cfg =
      fixedEntry cfg op (b.typeHigh 1) (b.typeHigh 2) (b.typeHigh 3) b.cls := by
  unfold instrOfLayout
  rw [if_neg (by simp [hv])]
  simp only [Instr.cur, entryOfFixed]
  rw [if_pos ⟨hv, hf, hc⟩]

theorem encode_of_format {i : Instr} {op : Byte} {b : Layout} (h : i.format = some (op, b)) :
    encode i = op :: b.bytes := by
  cases i <;> cases h <;> rfl

theorem wellFormed_of_cur {cfg : Config} {i : Instr} {c : Cur} (h : i.cur cfg = some c) :
    WellFormed cfg i = true := by
  cases i <;> first | cases h | (simp only [WellFormed, h, Option.isSome_some])

/-- A format instruction of a build: its layout fits the build, it is the one the decoder makes of that layout,
and its decode result is that of the layout's type bits. -/
theorem cur_cases {cfg : Config} {i : Instr} {c : Cur} (h : i.cur cfg = some c) :
    ∃ op b, i.format = some (op, b) ∧ b.fitsMode cfg.mode = true ∧ i = instrOfLayout cfg op b ∧
      c.cls = b.cls ∧
      (cfg.varlen = true ∧ entryFor cfg op (b.typeHigh 1) (b.typeHigh 2) (b.typeHigh 3) b.cls = some c ∨
       cfg.varlen = false ∧ fixedClass cfg = some b.cls ∧
         fixedEntry cfg op (b.typeHigh 1) (b.typeHigh 2) (b.typeHigh 3) b.cls = some c) := by
  have varlenCase : ∀ {m : Mode} {op : Byte} {b : Layout}, entryOfLayout cfg m op b = some c →
      cfg.varlen = true ∧ cfg.mode = m ∧ b.fitsMode cfg.mode = true ∧
        entryFor cfg op (b.typeHigh 1) (b.typeHigh 2) (b.typeHigh 3) b.cls = some c := by
    intro m op b h
    unfold entryOfLayout at h
    split at h
    · rename_i hc
      exact ⟨hc.1, hc.2.1, hc.2.1 ▸ hc.2.2, h⟩
    · cases h
  cases i
  case undefinedOpcode => cases h
  case fixedLength op b =>
    simp only [Instr.cur, entryOfFixed] at h
    split at h
    · rename_i hc
      refine ⟨op, b, rfl, hc.2.1, ?_, ?_, .inr ⟨hc.1, hc.2.2, h⟩⟩
      · unfold instrOfLayout
        rw [if_neg (by simp [hc.1])]
      · unfold fixedEntry at h
        obtain ⟨e, _, rfl⟩ := Option.map_eq_some_iff.1 h
        rfl
    · cases h
  all_goals
    obtain ⟨hv, hm, hf, he⟩ := varlenCase h
    refine ⟨_, _, rfl, hf, ?_, (entryFor_eq_some.1 he).1, .inl ⟨hv, he⟩⟩
    unfold instrOfLayout
    rw [if_pos hv, hm]

/-- The decode result of an instruction of the build has its class's length and an index of IDX_W bits. -/
theorem cur_bounds {cfg : Config} {i : Instr} {c : Cur} (h : i.cur cfg = some c) :
    lenOf cfg.mode c.cls = some c.len ∧ c.idx.toNat < nOps cfg := by
  obtain ⟨op, b, _, _, _, hcls, ⟨_, he⟩ | ⟨_, hf, he⟩⟩ := cur_cases h
  · obtain ⟨_, hi, hn, _⟩ := entryFor_eq_some.1 he
    exact ⟨hcls ▸ hn, hi ▸ foldIndex_lt _ _ _ _ _ _⟩
  · unfold fixedEntry at he
    obtain ⟨e, _, rfl⟩ := Option.map_eq_some_iff.1 he
    exact ⟨fixedClass_some hf, foldIndex_lt _ _ _ _ _ _⟩

/-! ### The decoder -/

/-- The bytes of a resolved class that fit are parsed into an instruction of the build with that very decode
result; this is all that decoding a format can do. -/
theorem decode_resolved {cfg : Config} {op : Byte} {tail : List Byte} {c : Cur}
    (h : resolve cfg op (op :: tail) = .resolved c) (hl : c.len ≤ tail.length + 1) :
    ∃ b rest, parseLayout cfg.mode c.cls tail = some (b, rest) ∧
      decode cfg (op :: tail) = .ok (instrOfLayout cfg op b, rest) ∧
      (instrOfLayout cfg op b).cur cfg = some c ∧ b.cls = c.cls ∧ b.fitsMode cfg.mode = true ∧
      b.bytes ++ rest = tail := by
  obtain ⟨hn, -, -, hvar, hfix⟩ := resolve_resolved h
  obtain ⟨b, rest, hp⟩ := parseLayout_total hn hl
  obtain ⟨hc, hf, hb⟩ := parseLayout_some hp
  refine ⟨b, rest, hp, ?_, ?_, hc, hf, hb⟩
  · simp only [decode, h, if_neg (Nat.not_lt.2 hl), hp]
  · have hbit : ∀ k, b.cls.hasType k = true → b.typeHigh k = typeBit cfg.mode (op :: tail) k := by
      intro k hk
      rw [← hb, typeBit_layout op rest k hf hk]
    cases hv : cfg.varlen with
    | true =>
      rw [instrOfLayout_cur_varlen hv hf, entryFor_congr op (hbit 1) (hbit 2) (hbit 3), hc]
      exact hvar hv
    | false =>
      obtain ⟨hfc, he⟩ := hfix hv
      rw [instrOfLayout_cur_fixed hv hf (hc ▸ hfc)]
      unfold fixedEntry at he ⊢
      rw [foldIndex_congr cfg.extBits op (hbit 1) (hbit 2) (hbit 3), hc]
      exact he

/-- All that decoding can do with at least one byte. -/
theorem decode_cases (cfg : Config) (op : Byte) (tail : List Byte) :
    (resolve cfg op (op :: tail) = .undefined ∧
      decode cfg (op :: tail) = .ok (.undefinedOpcode (op :: tail.take 15), tail.drop 15)) ∨
    (resolve cfg op (op :: tail) = .ambiguous ∧ decode cfg (op :: tail) = .error .ambiguousTable) ∨
    (resolve cfg op (op :: tail) = .fixedLenIllegal ∧ decode cfg (op :: tail) = .error .fixedLenIllegal) ∨
    (∃ c, resolve cfg op (op :: tail) = .resolved c ∧ tail.length + 1 < c.len ∧
      decode cfg (op :: tail) = .error (.pastEnd c)) ∨
    (∃ c b rest, resolve cfg op (op :: tail) = .resolved c ∧ c.len ≤ tail.length + 1 ∧
      decode cfg (op :: tail) = .ok (instrOfLayout cfg op b, rest) ∧
      (instrOfLayout cfg op b).cur cfg = some c ∧ b.cls = c.cls ∧ b.fitsMode cfg.mode = true ∧
      b.bytes ++ rest = tail) := by
  cases h : resolve cfg op (op :: tail) with
  | undefined => exact .inl ⟨rfl, by simp only [decode, h]⟩
  | ambiguous => exact .inr (.inl ⟨rfl, by simp only [decode, h]⟩)
  | fixedLenIllegal => exact .inr (.inr (.inl ⟨rfl, by simp only [decode, h]⟩))
  | resolved c =>
    by_cases hl : tail.length + 1 < c.len
    · exact .inr (.inr (.inr (.inl ⟨c, rfl, hl, by simp only [decode, h, if_pos hl]⟩)))
    · obtain ⟨b, rest, _, hd, hcur, hc, hf, hb⟩ := decode_resolved h (Nat.not_lt.1 hl)
      exact .inr (.inr (.inr (.inr ⟨c, b, rest, rfl, Nat.not_lt.1 hl, hd, hcur, hc, hf, hb⟩)))

/-- A build that the model takes never decodes ambiguously, and its FIXED_LEN is legal. -/
theorem resolve_of_no_flaw {cfg : Config} (h : configFlaw cfg = none) (op : Byte) (w : List Byte) :
    resolve cfg op w ≠ .ambiguous ∧ resolve cfg op w ≠ .fixedLenIllegal := by
  obtain ⟨hw, hf⟩ := configFlaw_none h
  have hlen : (candidates cfg op w).length ≤ 1 := (atMostOneClass_iff.1 (tableWf_one hw)) _ _ _ _
  unfold resolve
  cases hv : cfg.varlen with
  | true =>
    match hc : candidates cfg op w, hlen with
    | [], _ => simp
    | [c], _ => simp
    | _ :: _ :: _, hlen => simp at hlen
  | false =>
    obtain ⟨c, hfc⟩ := hf hv
    simp only [hfc, Bool.false_eq_true, if_false]
    constructor <;> split <;> simp

end Sys2Proof
end

