-- ==== Sys2Proof/Laws/State.lean ====
section
/-! SUPPORT. One lemma per field per update of State, so that no proof unfolds a record update. -/

namespace Sys2Proof.Machine

/-! ### requestJump -/

@[simp] theorem State.requestJump_cfg (x : JumpTarget) (s : State) : (s.requestJump x).cfg = s.cfg := rfl
@[simp] theorem State.requestJump_engState (x : JumpTarget) (s : State) : (s.requestJump x).engState = s.engState := rfl
@[simp] theorem State.requestJump_pc (x : JumpTarget) (s : State) : (s.requestJump x).pc = s.pc := rfl
@[simp] theorem State.requestJump_totalLen (x : JumpTarget) (s : State) : (s.requestJump x).totalLen = s.totalLen := rfl
@[simp] theorem State.requestJump_jmpValid (x : JumpTarget) (s : State) : (s.requestJump x).jmpValid = true := rfl
@[simp] theorem State.requestJump_jmpTarget (x : JumpTarget) (s : State) : (s.requestJump x).jmpTarget = x := rfl
@[simp] theorem State.requestJump_termReq (x : JumpTarget) (s : State) : (s.requestJump x).termReq = s.termReq := rfl
@[simp] theorem State.requestJump_wdtHook (x : JumpTarget) (s : State) : (s.requestJump x).wdtHook = s.wdtHook := rfl
@[simp] theorem State.requestJump_result (x : JumpTarget) (s : State) : (s.requestJump x).result = s.result := rfl
@[simp] theorem State.requestJump_err (x : JumpTarget) (s : State) : (s.requestJump x).err = s.err := rfl
@[simp] theorem State.requestJump_record (x : JumpTarget) (s : State) : (s.requestJump x).record = s.record := rfl
@[simp] theorem State.requestJump_cur (x : JumpTarget) (s : State) : (s.requestJump x).cur = s.cur := rfl
@[simp] theorem State.requestJump_faultReason (x : JumpTarget) (s : State) : (s.requestJump x).faultReason = s.faultReason := rfl
@[simp] theorem State.requestJump_faultPc (x : JumpTarget) (s : State) : (s.requestJump x).faultPc = s.faultPc := rfl
@[simp] theorem State.requestJump_mem (x : JumpTarget) (s : State) : (s.requestJump x).mem = s.mem := rfl
@[simp] theorem State.requestJump_hostReqs (x : JumpTarget) (s : State) : (s.requestJump x).hostReqs = s.hostReqs := rfl
@[simp] theorem State.requestJump_lastErrorReply (x : JumpTarget) (s : State) : (s.requestJump x).lastErrorReply = s.lastErrorReply := rfl
@[simp] theorem State.requestJump_handlerReplies (x : JumpTarget) (s : State) : (s.requestJump x).handlerReplies = s.handlerReplies := rfl
@[simp] theorem State.requestJump_hookReplies (x : JumpTarget) (s : State) : (s.requestJump x).hookReplies = s.hookReplies := rfl
@[simp] theorem State.requestJump_handlerCalls (x : JumpTarget) (s : State) : (s.requestJump x).handlerCalls = s.handlerCalls := rfl
@[simp] theorem State.requestJump_hookCalls (x : JumpTarget) (s : State) : (s.requestJump x).hookCalls = s.hookCalls := rfl

/-! ### requestStop -/

@[simp] theorem State.requestStop_cfg (s : State) : s.requestStop.cfg = s.cfg := rfl
@[simp] theorem State.requestStop_engState (s : State) : s.requestStop.engState = s.engState := rfl
@[simp] theorem State.requestStop_pc (s : State) : s.requestStop.pc = s.pc := rfl
@[simp] theorem State.requestStop_totalLen (s : State) : s.requestStop.totalLen = s.totalLen := rfl
@[simp] theorem State.requestStop_jmpValid (s : State) : s.requestStop.jmpValid = s.jmpValid := rfl
@[simp] theorem State.requestStop_jmpTarget (s : State) : s.requestStop.jmpTarget = s.jmpTarget := rfl
@[simp] theorem State.requestStop_termReq (s : State) : s.requestStop.termReq = true := rfl
@[simp] theorem State.requestStop_wdtHook (s : State) : s.requestStop.wdtHook = s.wdtHook := rfl
@[simp] theorem State.requestStop_result (s : State) : s.requestStop.result = s.result := rfl
@[simp] theorem State.requestStop_err (s : State) : s.requestStop.err = s.err := rfl
@[simp] theorem State.requestStop_record (s : State) : s.requestStop.record = s.record := rfl
@[simp] theorem State.requestStop_cur (s : State) : s.requestStop.cur = s.cur := rfl
@[simp] theorem State.requestStop_faultReason (s : State) : s.requestStop.faultReason = s.faultReason := rfl
@[simp] theorem State.requestStop_faultPc (s : State) : s.requestStop.faultPc = s.faultPc := rfl
@[simp] theorem State.requestStop_mem (s : State) : s.requestStop.mem = s.mem := rfl
@[simp] theorem State.requestStop_hostReqs (s : State) : s.requestStop.hostReqs = s.hostReqs := rfl
@[simp] theorem State.requestStop_lastErrorReply (s : State) : s.requestStop.lastErrorReply = s.lastErrorReply := rfl
@[simp] theorem State.requestStop_handlerReplies (s : State) : s.requestStop.handlerReplies = s.handlerReplies := rfl
@[simp] theorem State.requestStop_hookReplies (s : State) : s.requestStop.hookReplies = s.hookReplies := rfl
@[simp] theorem State.requestStop_handlerCalls (s : State) : s.requestStop.handlerCalls = s.handlerCalls := rfl
@[simp] theorem State.requestStop_hookCalls (s : State) : s.requestStop.hookCalls = s.hookCalls := rfl

/-! ### setWatchdog -/

@[simp] theorem State.setWatchdog_cfg (v : Option HookId) (s : State) : (s.setWatchdog v).cfg = s.cfg := rfl
@[simp] theorem State.setWatchdog_engState (v : Option HookId) (s : State) : (s.setWatchdog v).engState = s.engState := rfl
@[simp] theorem State.setWatchdog_pc (v : Option HookId) (s : State) : (s.setWatchdog v).pc = s.pc := rfl
@[simp] theorem State.setWatchdog_totalLen (v : Option HookId) (s : State) : (s.setWatchdog v).totalLen = s.totalLen := rfl
@[simp] theorem State.setWatchdog_jmpValid (v : Option HookId) (s : State) : (s.setWatchdog v).jmpValid = s.jmpValid := rfl
@[simp] theorem State.setWatchdog_jmpTarget (v : Option HookId) (s : State) : (s.setWatchdog v).jmpTarget = s.jmpTarget := rfl
@[simp] theorem State.setWatchdog_termReq (v : Option HookId) (s : State) : (s.setWatchdog v).termReq = s.termReq := rfl
@[simp] theorem State.setWatchdog_wdtHook (v : Option HookId) (s : State) : (s.setWatchdog v).wdtHook = v := rfl
@[simp] theorem State.setWatchdog_result (v : Option HookId) (s : State) : (s.setWatchdog v).result = s.result := rfl
@[simp] theorem State.setWatchdog_err (v : Option HookId) (s : State) : (s.setWatchdog v).err = s.err := rfl
@[simp] theorem State.setWatchdog_record (v : Option HookId) (s : State) : (s.setWatchdog v).record = s.record := rfl
@[simp] theorem State.setWatchdog_cur (v : Option HookId) (s : State) : (s.setWatchdog v).cur = s.cur := rfl
@[simp] theorem State.setWatchdog_faultReason (v : Option HookId) (s : State) : (s.setWatchdog v).faultReason = s.faultReason := rfl
@[simp] theorem State.setWatchdog_faultPc (v : Option HookId) (s : State) : (s.setWatchdog v).faultPc = s.faultPc := rfl
@[simp] theorem State.setWatchdog_mem (v : Option HookId) (s : State) : (s.setWatchdog v).mem = s.mem := rfl
@[simp] theorem State.setWatchdog_hostReqs (v : Option HookId) (s : State) : (s.setWatchdog v).hostReqs = s.hostReqs := rfl
@[simp] theorem State.setWatchdog_lastErrorReply (v : Option HookId) (s : State) : (s.setWatchdog v).lastErrorReply = s.lastErrorReply := rfl
@[simp] theorem State.setWatchdog_handlerReplies (v : Option HookId) (s : State) : (s.setWatchdog v).handlerReplies = s.handlerReplies := rfl
@[simp] theorem State.setWatchdog_hookReplies (v : Option HookId) (s : State) : (s.setWatchdog v).hookReplies = s.hookReplies := rfl
@[simp] theorem State.setWatchdog_handlerCalls (v : Option HookId) (s : State) : (s.setWatchdog v).handlerCalls = s.handlerCalls := rfl
@[simp] theorem State.setWatchdog_hookCalls (v : Option HookId) (s : State) : (s.setWatchdog v).hookCalls = s.hookCalls := rfl

/-! ### clearStop -/

@[simp] theorem State.clearStop_cfg (s : State) : s.clearStop.cfg = s.cfg := rfl
@[simp] theorem State.clearStop_engState (s : State) : s.clearStop.engState = s.engState := rfl
@[simp] theorem State.clearStop_pc (s : State) : s.clearStop.pc = s.pc := rfl
@[simp] theorem State.clearStop_totalLen (s : State) : s.clearStop.totalLen = s.totalLen := rfl
@[simp] theorem State.clearStop_jmpValid (s : State) : s.clearStop.jmpValid = s.jmpValid := rfl
@[simp] theorem State.clearStop_jmpTarget (s : State) : s.clearStop.jmpTarget = s.jmpTarget := rfl
@[simp] theorem State.clearStop_termReq (s : State) : s.clearStop.termReq = false := rfl
@[simp] theorem State.clearStop_wdtHook (s : State) : s.clearStop.wdtHook = s.wdtHook := rfl
@[simp] theorem State.clearStop_result (s : State) : s.clearStop.result = s.result := rfl
@[simp] theorem State.clearStop_err (s : State) : s.clearStop.err = s.err := rfl
@[simp] theorem State.clearStop_record (s : State) : s.clearStop.record = s.record := rfl
@[simp] theorem State.clearStop_cur (s : State) : s.clearStop.cur = s.cur := rfl
@[simp] theorem State.clearStop_faultReason (s : State) : s.clearStop.faultReason = s.faultReason := rfl
@[simp] theorem State.clearStop_faultPc (s : State) : s.clearStop.faultPc = s.faultPc := rfl
@[simp] theorem State.clearStop_mem (s : State) : s.clearStop.mem = s.mem := rfl
@[simp] theorem State.clearStop_hostReqs (s : State) : s.clearStop.hostReqs = s.hostReqs := rfl
@[simp] theorem State.clearStop_lastErrorReply (s : State) : s.clearStop.lastErrorReply = s.lastErrorReply := rfl
@[simp] theorem State.clearStop_handlerReplies (s : State) : s.clearStop.handlerReplies = s.handlerReplies := rfl
@[simp] theorem State.clearStop_hookReplies (s : State) : s.clearStop.hookReplies = s.hookReplies := rfl
@[simp] theorem State.clearStop_handlerCalls (s : State) : s.clearStop.handlerCalls = s.handlerCalls := rfl
@[simp] theorem State.clearStop_hookCalls (s : State) : s.clearStop.hookCalls = s.hookCalls := rfl

/-! ### halt -/

@[simp] theorem State.halt_cfg (s : State) : s.halt.cfg = s.cfg := rfl
@[simp] theorem State.halt_engState (s : State) : s.halt.engState = .halted := rfl
@[simp] theorem State.halt_pc (s : State) : s.halt.pc = s.pc := rfl
@[simp] theorem State.halt_totalLen (s : State) : s.halt.totalLen = s.totalLen := rfl
@[simp] theorem State.halt_jmpValid (s : State) : s.halt.jmpValid = s.jmpValid := rfl
@[simp] theorem State.halt_jmpTarget (s : State) : s.halt.jmpTarget = s.jmpTarget := rfl
@[simp] theorem State.halt_termReq (s : State) : s.halt.termReq = s.termReq := rfl
@[simp] theorem State.halt_wdtHook (s : State) : s.halt.wdtHook = s.wdtHook := rfl
@[simp] theorem State.halt_result (s : State) : s.halt.result = .ok := rfl
@[simp] theorem State.halt_err (s : State) : s.halt.err = s.err := rfl
@[simp] theorem State.halt_record (s : State) : s.halt.record = s.record := rfl
@[simp] theorem State.halt_cur (s : State) : s.halt.cur = s.cur := rfl
@[simp] theorem State.halt_faultReason (s : State) : s.halt.faultReason = s.faultReason := rfl
@[simp] theorem State.halt_faultPc (s : State) : s.halt.faultPc = s.faultPc := rfl
@[simp] theorem State.halt_mem (s : State) : s.halt.mem = s.mem := rfl
@[simp] theorem State.halt_hostReqs (s : State) : s.halt.hostReqs = s.hostReqs := rfl
@[simp] theorem State.halt_lastErrorReply (s : State) : s.halt.lastErrorReply = s.lastErrorReply := rfl
@[simp] theorem State.halt_handlerReplies (s : State) : s.halt.handlerReplies = s.handlerReplies := rfl
@[simp] theorem State.halt_hookReplies (s : State) : s.halt.hookReplies = s.hookReplies := rfl
@[simp] theorem State.halt_handlerCalls (s : State) : s.halt.handlerCalls = s.handlerCalls := rfl
@[simp] theorem State.halt_hookCalls (s : State) : s.halt.hookCalls = s.hookCalls := rfl

/-! ### abort -/

@[simp] theorem State.abort_cfg (k : ErrKind) (a : Nat) (r : InstrRecord) (s : State) : (s.abort k a r).cfg = s.cfg := rfl
@[simp] theorem State.abort_engState (k : ErrKind) (a : Nat) (r : InstrRecord) (s : State) : (s.abort k a r).engState = .aborted := rfl
@[simp] theorem State.abort_pc (k : ErrKind) (a : Nat) (r : InstrRecord) (s : State) : (s.abort k a r).pc = s.pc := rfl
@[simp] theorem State.abort_totalLen (k : ErrKind) (a : Nat) (r : InstrRecord) (s : State) : (s.abort k a r).totalLen = s.totalLen := rfl
@[simp] theorem State.abort_jmpValid (k : ErrKind) (a : Nat) (r : InstrRecord) (s : State) : (s.abort k a r).jmpValid = s.jmpValid := rfl
@[simp] theorem State.abort_jmpTarget (k : ErrKind) (a : Nat) (r : InstrRecord) (s : State) : (s.abort k a r).jmpTarget = s.jmpTarget := rfl
@[simp] theorem State.abort_termReq (k : ErrKind) (a : Nat) (r : InstrRecord) (s : State) : (s.abort k a r).termReq = s.termReq := rfl
@[simp] theorem State.abort_wdtHook (k : ErrKind) (a : Nat) (r : InstrRecord) (s : State) : (s.abort k a r).wdtHook = s.wdtHook := rfl
@[simp] theorem State.abort_result (k : ErrKind) (a : Nat) (r : InstrRecord) (s : State) : (s.abort k a r).result = .fail := rfl
@[simp] theorem State.abort_err (k : ErrKind) (a : Nat) (r : InstrRecord) (s : State) : (s.abort k a r).err = ⟨k, a, r⟩ := rfl
@[simp] theorem State.abort_record (k : ErrKind) (a : Nat) (r : InstrRecord) (s : State) : (s.abort k a r).record = s.record := rfl
@[simp] theorem State.abort_cur (k : ErrKind) (a : Nat) (r : InstrRecord) (s : State) : (s.abort k a r).cur = s.cur := rfl
@[simp] theorem State.abort_faultReason (k : ErrKind) (a : Nat) (r : InstrRecord) (s : State) : (s.abort k a r).faultReason = s.faultReason := rfl
@[simp] theorem State.abort_faultPc (k : ErrKind) (a : Nat) (r : InstrRecord) (s : State) : (s.abort k a r).faultPc = s.faultPc := rfl
@[simp] theorem State.abort_mem (k : ErrKind) (a : Nat) (r : InstrRecord) (s : State) : (s.abort k a r).mem = s.mem := rfl
@[simp] theorem State.abort_hostReqs (k : ErrKind) (a : Nat) (r : InstrRecord) (s : State) : (s.abort k a r).hostReqs = s.hostReqs := rfl
@[simp] theorem State.abort_lastErrorReply (k : ErrKind) (a : Nat) (r : InstrRecord) (s : State) : (s.abort k a r).lastErrorReply = s.lastErrorReply := rfl
@[simp] theorem State.abort_handlerReplies (k : ErrKind) (a : Nat) (r : InstrRecord) (s : State) : (s.abort k a r).handlerReplies = s.handlerReplies := rfl
@[simp] theorem State.abort_hookReplies (k : ErrKind) (a : Nat) (r : InstrRecord) (s : State) : (s.abort k a r).hookReplies = s.hookReplies := rfl
@[simp] theorem State.abort_handlerCalls (k : ErrKind) (a : Nat) (r : InstrRecord) (s : State) : (s.abort k a r).handlerCalls = s.handlerCalls := rfl
@[simp] theorem State.abort_hookCalls (k : ErrKind) (a : Nat) (r : InstrRecord) (s : State) : (s.abort k a r).hookCalls = s.hookCalls := rfl

/-! ### enterFault -/

@[simp] theorem State.enterFault_cfg (x : FaultReason) (s : State) : (s.enterFault x).cfg = s.cfg := rfl
@[simp] theorem State.enterFault_engState (x : FaultReason) (s : State) : (s.enterFault x).engState = .faulted := rfl
@[simp] theorem State.enterFault_pc (x : FaultReason) (s : State) : (s.enterFault x).pc = s.pc := rfl
@[simp] theorem State.enterFault_totalLen (x : FaultReason) (s : State) : (s.enterFault x).totalLen = s.totalLen := rfl
@[simp] theorem State.enterFault_jmpValid (x : FaultReason) (s : State) : (s.enterFault x).jmpValid = s.jmpValid := rfl
@[simp] theorem State.enterFault_jmpTarget (x : FaultReason) (s : State) : (s.enterFault x).jmpTarget = s.jmpTarget := rfl
@[simp] theorem State.enterFault_termReq (x : FaultReason) (s : State) : (s.enterFault x).termReq = s.termReq := rfl
@[simp] theorem State.enterFault_wdtHook (x : FaultReason) (s : State) : (s.enterFault x).wdtHook = s.wdtHook := rfl
@[simp] theorem State.enterFault_result (x : FaultReason) (s : State) : (s.enterFault x).result = s.result := rfl
@[simp] theorem State.enterFault_err (x : FaultReason) (s : State) : (s.enterFault x).err = s.err := rfl
@[simp] theorem State.enterFault_record (x : FaultReason) (s : State) : (s.enterFault x).record = s.record := rfl
@[simp] theorem State.enterFault_cur (x : FaultReason) (s : State) : (s.enterFault x).cur = s.cur := rfl
@[simp] theorem State.enterFault_faultReason (x : FaultReason) (s : State) : (s.enterFault x).faultReason = some x := rfl
@[simp] theorem State.enterFault_faultPc (x : FaultReason) (s : State) : (s.enterFault x).faultPc = s.pc := rfl
@[simp] theorem State.enterFault_mem (x : FaultReason) (s : State) : (s.enterFault x).mem = s.mem := rfl
@[simp] theorem State.enterFault_hostReqs (x : FaultReason) (s : State) : (s.enterFault x).hostReqs = s.hostReqs := rfl
@[simp] theorem State.enterFault_lastErrorReply (x : FaultReason) (s : State) : (s.enterFault x).lastErrorReply = s.lastErrorReply := rfl
@[simp] theorem State.enterFault_handlerReplies (x : FaultReason) (s : State) : (s.enterFault x).handlerReplies = s.handlerReplies := rfl
@[simp] theorem State.enterFault_hookReplies (x : FaultReason) (s : State) : (s.enterFault x).hookReplies = s.hookReplies := rfl
@[simp] theorem State.enterFault_handlerCalls (x : FaultReason) (s : State) : (s.enterFault x).handlerCalls = s.handlerCalls := rfl
@[simp] theorem State.enterFault_hookCalls (x : FaultReason) (s : State) : (s.enterFault x).hookCalls = s.hookCalls := rfl

/-! ### writeProgram -/

@[simp] theorem State.writeProgram_cfg (img : List Host.Cell) (s : State) : (s.writeProgram img).cfg = s.cfg := rfl
@[simp] theorem State.writeProgram_engState (img : List Host.Cell) (s : State) : (s.writeProgram img).engState = s.engState := rfl
@[simp] theorem State.writeProgram_pc (img : List Host.Cell) (s : State) : (s.writeProgram img).pc = s.pc := rfl
@[simp] theorem State.writeProgram_totalLen (img : List Host.Cell) (s : State) : (s.writeProgram img).totalLen = s.totalLen := rfl
@[simp] theorem State.writeProgram_jmpValid (img : List Host.Cell) (s : State) : (s.writeProgram img).jmpValid = s.jmpValid := rfl
@[simp] theorem State.writeProgram_jmpTarget (img : List Host.Cell) (s : State) : (s.writeProgram img).jmpTarget = s.jmpTarget := rfl
@[simp] theorem State.writeProgram_termReq (img : List Host.Cell) (s : State) : (s.writeProgram img).termReq = s.termReq := rfl
@[simp] theorem State.writeProgram_wdtHook (img : List Host.Cell) (s : State) : (s.writeProgram img).wdtHook = s.wdtHook := rfl
@[simp] theorem State.writeProgram_result (img : List Host.Cell) (s : State) : (s.writeProgram img).result = s.result := rfl
@[simp] theorem State.writeProgram_err (img : List Host.Cell) (s : State) : (s.writeProgram img).err = s.err := rfl
@[simp] theorem State.writeProgram_record (img : List Host.Cell) (s : State) : (s.writeProgram img).record = s.record := rfl
@[simp] theorem State.writeProgram_cur (img : List Host.Cell) (s : State) : (s.writeProgram img).cur = s.cur := rfl
@[simp] theorem State.writeProgram_faultReason (img : List Host.Cell) (s : State) : (s.writeProgram img).faultReason = s.faultReason := rfl
@[simp] theorem State.writeProgram_faultPc (img : List Host.Cell) (s : State) : (s.writeProgram img).faultPc = s.faultPc := rfl
@[simp] theorem State.writeProgram_mem (img : List Host.Cell) (s : State) : (s.writeProgram img).mem = s.mem.overlay img := rfl
@[simp] theorem State.writeProgram_hostReqs (img : List Host.Cell) (s : State) : (s.writeProgram img).hostReqs = s.hostReqs := rfl
@[simp] theorem State.writeProgram_lastErrorReply (img : List Host.Cell) (s : State) : (s.writeProgram img).lastErrorReply = s.lastErrorReply := rfl
@[simp] theorem State.writeProgram_handlerReplies (img : List Host.Cell) (s : State) : (s.writeProgram img).handlerReplies = s.handlerReplies := rfl
@[simp] theorem State.writeProgram_hookReplies (img : List Host.Cell) (s : State) : (s.writeProgram img).hookReplies = s.hookReplies := rfl
@[simp] theorem State.writeProgram_handlerCalls (img : List Host.Cell) (s : State) : (s.writeProgram img).handlerCalls = s.handlerCalls := rfl
@[simp] theorem State.writeProgram_hookCalls (img : List Host.Cell) (s : State) : (s.writeProgram img).hookCalls = s.hookCalls := rfl

/-! ### countHandlerCall -/

@[simp] theorem State.countHandlerCall_cfg (s : State) : s.countHandlerCall.cfg = s.cfg := rfl
@[simp] theorem State.countHandlerCall_engState (s : State) : s.countHandlerCall.engState = s.engState := rfl
@[simp] theorem State.countHandlerCall_pc (s : State) : s.countHandlerCall.pc = s.pc := rfl
@[simp] theorem State.countHandlerCall_totalLen (s : State) : s.countHandlerCall.totalLen = s.totalLen := rfl
@[simp] theorem State.countHandlerCall_jmpValid (s : State) : s.countHandlerCall.jmpValid = s.jmpValid := rfl
@[simp] theorem State.countHandlerCall_jmpTarget (s : State) : s.countHandlerCall.jmpTarget = s.jmpTarget := rfl
@[simp] theorem State.countHandlerCall_termReq (s : State) : s.countHandlerCall.termReq = s.termReq := rfl
@[simp] theorem State.countHandlerCall_wdtHook (s : State) : s.countHandlerCall.wdtHook = s.wdtHook := rfl
@[simp] theorem State.countHandlerCall_result (s : State) : s.countHandlerCall.result = s.result := rfl
@[simp] theorem State.countHandlerCall_err (s : State) : s.countHandlerCall.err = s.err := rfl
@[simp] theorem State.countHandlerCall_record (s : State) : s.countHandlerCall.record = s.record := rfl
@[simp] theorem State.countHandlerCall_cur (s : State) : s.countHandlerCall.cur = s.cur := rfl
@[simp] theorem State.countHandlerCall_faultReason (s : State) : s.countHandlerCall.faultReason = s.faultReason := rfl
@[simp] theorem State.countHandlerCall_faultPc (s : State) : s.countHandlerCall.faultPc = s.faultPc := rfl
@[simp] theorem State.countHandlerCall_mem (s : State) : s.countHandlerCall.mem = s.mem := rfl
@[simp] theorem State.countHandlerCall_hostReqs (s : State) : s.countHandlerCall.hostReqs = s.hostReqs := rfl
@[simp] theorem State.countHandlerCall_lastErrorReply (s : State) : s.countHandlerCall.lastErrorReply = s.lastErrorReply := rfl
@[simp] theorem State.countHandlerCall_handlerReplies (s : State) : s.countHandlerCall.handlerReplies = s.handlerReplies.tail := rfl
@[simp] theorem State.countHandlerCall_hookReplies (s : State) : s.countHandlerCall.hookReplies = s.hookReplies := rfl
@[simp] theorem State.countHandlerCall_handlerCalls (s : State) : s.countHandlerCall.handlerCalls = s.handlerCalls + 1 := rfl
@[simp] theorem State.countHandlerCall_hookCalls (s : State) : s.countHandlerCall.hookCalls = s.hookCalls := rfl

/-! ### countHookCall -/

@[simp] theorem State.countHookCall_cfg (s : State) : s.countHookCall.cfg = s.cfg := rfl
@[simp] theorem State.countHookCall_engState (s : State) : s.countHookCall.engState = s.engState := rfl
@[simp] theorem State.countHookCall_pc (s : State) : s.countHookCall.pc = s.pc := rfl
@[simp] theorem State.countHookCall_totalLen (s : State) : s.countHookCall.totalLen = s.totalLen := rfl
@[simp] theorem State.countHookCall_jmpValid (s : State) : s.countHookCall.jmpValid = s.jmpValid := rfl
@[simp] theorem State.countHookCall_jmpTarget (s : State) : s.countHookCall.jmpTarget = s.jmpTarget := rfl
@[simp] theorem State.countHookCall_termReq (s : State) : s.countHookCall.termReq = s.termReq := rfl
@[simp] theorem State.countHookCall_wdtHook (s : State) : s.countHookCall.wdtHook = s.wdtHook := rfl
@[simp] theorem State.countHookCall_result (s : State) : s.countHookCall.result = s.result := rfl
@[simp] theorem State.countHookCall_err (s : State) : s.countHookCall.err = s.err := rfl
@[simp] theorem State.countHookCall_record (s : State) : s.countHookCall.record = s.record := rfl
@[simp] theorem State.countHookCall_cur (s : State) : s.countHookCall.cur = s.cur := rfl
@[simp] theorem State.countHookCall_faultReason (s : State) : s.countHookCall.faultReason = s.faultReason := rfl
@[simp] theorem State.countHookCall_faultPc (s : State) : s.countHookCall.faultPc = s.faultPc := rfl
@[simp] theorem State.countHookCall_mem (s : State) : s.countHookCall.mem = s.mem := rfl
@[simp] theorem State.countHookCall_hostReqs (s : State) : s.countHookCall.hostReqs = s.hostReqs := rfl
@[simp] theorem State.countHookCall_lastErrorReply (s : State) : s.countHookCall.lastErrorReply = s.lastErrorReply := rfl
@[simp] theorem State.countHookCall_handlerReplies (s : State) : s.countHookCall.handlerReplies = s.handlerReplies := rfl
@[simp] theorem State.countHookCall_hookReplies (s : State) : s.countHookCall.hookReplies = s.hookReplies.tail := rfl
@[simp] theorem State.countHookCall_handlerCalls (s : State) : s.countHookCall.handlerCalls = s.handlerCalls := rfl
@[simp] theorem State.countHookCall_hookCalls (s : State) : s.countHookCall.hookCalls = s.hookCalls + 1 := rfl

/-! ### latch -/

@[simp] theorem State.latch_cfg (c : Cur) (r : InstrRecord) (s : State) : (s.latch c r).cfg = s.cfg := rfl
@[simp] theorem State.latch_engState (c : Cur) (r : InstrRecord) (s : State) : (s.latch c r).engState = s.engState := rfl
@[simp] theorem State.latch_pc (c : Cur) (r : InstrRecord) (s : State) : (s.latch c r).pc = s.pc := rfl
@[simp] theorem State.latch_totalLen (c : Cur) (r : InstrRecord) (s : State) : (s.latch c r).totalLen = s.totalLen := rfl
@[simp] theorem State.latch_jmpValid (c : Cur) (r : InstrRecord) (s : State) : (s.latch c r).jmpValid = s.jmpValid := rfl
@[simp] theorem State.latch_jmpTarget (c : Cur) (r : InstrRecord) (s : State) : (s.latch c r).jmpTarget = s.jmpTarget := rfl
@[simp] theorem State.latch_termReq (c : Cur) (r : InstrRecord) (s : State) : (s.latch c r).termReq = s.termReq := rfl
@[simp] theorem State.latch_wdtHook (c : Cur) (r : InstrRecord) (s : State) : (s.latch c r).wdtHook = s.wdtHook := rfl
@[simp] theorem State.latch_result (c : Cur) (r : InstrRecord) (s : State) : (s.latch c r).result = s.result := rfl
@[simp] theorem State.latch_err (c : Cur) (r : InstrRecord) (s : State) : (s.latch c r).err = s.err := rfl
@[simp] theorem State.latch_record (c : Cur) (r : InstrRecord) (s : State) : (s.latch c r).record = r := rfl
@[simp] theorem State.latch_cur (c : Cur) (r : InstrRecord) (s : State) : (s.latch c r).cur = c := rfl
@[simp] theorem State.latch_faultReason (c : Cur) (r : InstrRecord) (s : State) : (s.latch c r).faultReason = s.faultReason := rfl
@[simp] theorem State.latch_faultPc (c : Cur) (r : InstrRecord) (s : State) : (s.latch c r).faultPc = s.faultPc := rfl
@[simp] theorem State.latch_mem (c : Cur) (r : InstrRecord) (s : State) : (s.latch c r).mem = s.mem := rfl
@[simp] theorem State.latch_hostReqs (c : Cur) (r : InstrRecord) (s : State) : (s.latch c r).hostReqs = s.hostReqs := rfl
@[simp] theorem State.latch_lastErrorReply (c : Cur) (r : InstrRecord) (s : State) : (s.latch c r).lastErrorReply = s.lastErrorReply := rfl
@[simp] theorem State.latch_handlerReplies (c : Cur) (r : InstrRecord) (s : State) : (s.latch c r).handlerReplies = s.handlerReplies := rfl
@[simp] theorem State.latch_hookReplies (c : Cur) (r : InstrRecord) (s : State) : (s.latch c r).hookReplies = s.hookReplies := rfl
@[simp] theorem State.latch_handlerCalls (c : Cur) (r : InstrRecord) (s : State) : (s.latch c r).handlerCalls = s.handlerCalls := rfl
@[simp] theorem State.latch_hookCalls (c : Cur) (r : InstrRecord) (s : State) : (s.latch c r).hookCalls = s.hookCalls := rfl

/-! ### takeJump -/

@[simp] theorem State.takeJump_cfg (s : State) : s.takeJump.cfg = s.cfg := rfl
@[simp] theorem State.takeJump_engState (s : State) : s.takeJump.engState = s.engState := rfl
@[simp] theorem State.takeJump_pc (s : State) : s.takeJump.pc = s.jmpTarget.toNat % 2 ^ s.cfg.pcW := rfl
@[simp] theorem State.takeJump_totalLen (s : State) : s.takeJump.totalLen = s.totalLen := rfl
@[simp] theorem State.takeJump_jmpValid (s : State) : s.takeJump.jmpValid = false := rfl
@[simp] theorem State.takeJump_jmpTarget (s : State) : s.takeJump.jmpTarget = s.jmpTarget := rfl
@[simp] theorem State.takeJump_termReq (s : State) : s.takeJump.termReq = s.termReq := rfl
@[simp] theorem State.takeJump_wdtHook (s : State) : s.takeJump.wdtHook = s.wdtHook := rfl
@[simp] theorem State.takeJump_result (s : State) : s.takeJump.result = s.result := rfl
@[simp] theorem State.takeJump_err (s : State) : s.takeJump.err = s.err := rfl
@[simp] theorem State.takeJump_record (s : State) : s.takeJump.record = s.record := rfl
@[simp] theorem State.takeJump_cur (s : State) : s.takeJump.cur = s.cur := rfl
@[simp] theorem State.takeJump_faultReason (s : State) : s.takeJump.faultReason = s.faultReason := rfl
@[simp] theorem State.takeJump_faultPc (s : State) : s.takeJump.faultPc = s.faultPc := rfl
@[simp] theorem State.takeJump_mem (s : State) : s.takeJump.mem = s.mem := rfl
@[simp] theorem State.takeJump_hostReqs (s : State) : s.takeJump.hostReqs = s.hostReqs := rfl
@[simp] theorem State.takeJump_lastErrorReply (s : State) : s.takeJump.lastErrorReply = s.lastErrorReply := rfl
@[simp] theorem State.takeJump_handlerReplies (s : State) : s.takeJump.handlerReplies = s.handlerReplies := rfl
@[simp] theorem State.takeJump_hookReplies (s : State) : s.takeJump.hookReplies = s.hookReplies := rfl
@[simp] theorem State.takeJump_handlerCalls (s : State) : s.takeJump.handlerCalls = s.handlerCalls := rfl
@[simp] theorem State.takeJump_hookCalls (s : State) : s.takeJump.hookCalls = s.hookCalls := rfl

/-! ### advance -/

@[simp] theorem State.advance_cfg (s : State) : s.advance.cfg = s.cfg := rfl
@[simp] theorem State.advance_engState (s : State) : s.advance.engState = s.engState := rfl
@[simp] theorem State.advance_pc (s : State) : s.advance.pc = s.pc + s.cur.len := rfl
@[simp] theorem State.advance_totalLen (s : State) : s.advance.totalLen = s.totalLen := rfl
@[simp] theorem State.advance_jmpValid (s : State) : s.advance.jmpValid = s.jmpValid := rfl
@[simp] theorem State.advance_jmpTarget (s : State) : s.advance.jmpTarget = s.jmpTarget := rfl
@[simp] theorem State.advance_termReq (s : State) : s.advance.termReq = s.termReq := rfl
@[simp] theorem State.advance_wdtHook (s : State) : s.advance.wdtHook = s.wdtHook := rfl
@[simp] theorem State.advance_result (s : State) : s.advance.result = s.result := rfl
@[simp] theorem State.advance_err (s : State) : s.advance.err = s.err := rfl
@[simp] theorem State.advance_record (s : State) : s.advance.record = s.record := rfl
@[simp] theorem State.advance_cur (s : State) : s.advance.cur = s.cur := rfl
@[simp] theorem State.advance_faultReason (s : State) : s.advance.faultReason = s.faultReason := rfl
@[simp] theorem State.advance_faultPc (s : State) : s.advance.faultPc = s.faultPc := rfl
@[simp] theorem State.advance_mem (s : State) : s.advance.mem = s.mem := rfl
@[simp] theorem State.advance_hostReqs (s : State) : s.advance.hostReqs = s.hostReqs := rfl
@[simp] theorem State.advance_lastErrorReply (s : State) : s.advance.lastErrorReply = s.lastErrorReply := rfl
@[simp] theorem State.advance_handlerReplies (s : State) : s.advance.handlerReplies = s.handlerReplies := rfl
@[simp] theorem State.advance_hookReplies (s : State) : s.advance.hookReplies = s.hookReplies := rfl
@[simp] theorem State.advance_handlerCalls (s : State) : s.advance.handlerCalls = s.handlerCalls := rfl
@[simp] theorem State.advance_hookCalls (s : State) : s.advance.hookCalls = s.hookCalls := rfl

/-! ### resetPc -/

@[simp] theorem State.resetPc_cfg (s : State) : s.resetPc.cfg = s.cfg := rfl
@[simp] theorem State.resetPc_engState (s : State) : s.resetPc.engState = s.engState := rfl
@[simp] theorem State.resetPc_pc (s : State) : s.resetPc.pc = 0 := rfl
@[simp] theorem State.resetPc_totalLen (s : State) : s.resetPc.totalLen = s.totalLen := rfl
@[simp] theorem State.resetPc_jmpValid (s : State) : s.resetPc.jmpValid = s.jmpValid := rfl
@[simp] theorem State.resetPc_jmpTarget (s : State) : s.resetPc.jmpTarget = s.jmpTarget := rfl
@[simp] theorem State.resetPc_termReq (s : State) : s.resetPc.termReq = s.termReq := rfl
@[simp] theorem State.resetPc_wdtHook (s : State) : s.resetPc.wdtHook = s.wdtHook := rfl
@[simp] theorem State.resetPc_result (s : State) : s.resetPc.result = s.result := rfl
@[simp] theorem State.resetPc_err (s : State) : s.resetPc.err = s.err := rfl
@[simp] theorem State.resetPc_record (s : State) : s.resetPc.record = s.record := rfl
@[simp] theorem State.resetPc_cur (s : State) : s.resetPc.cur = s.cur := rfl
@[simp] theorem State.resetPc_faultReason (s : State) : s.resetPc.faultReason = s.faultReason := rfl
@[simp] theorem State.resetPc_faultPc (s : State) : s.resetPc.faultPc = s.faultPc := rfl
@[simp] theorem State.resetPc_mem (s : State) : s.resetPc.mem = s.mem := rfl
@[simp] theorem State.resetPc_hostReqs (s : State) : s.resetPc.hostReqs = s.hostReqs := rfl
@[simp] theorem State.resetPc_lastErrorReply (s : State) : s.resetPc.lastErrorReply = s.lastErrorReply := rfl
@[simp] theorem State.resetPc_handlerReplies (s : State) : s.resetPc.handlerReplies = s.handlerReplies := rfl
@[simp] theorem State.resetPc_hookReplies (s : State) : s.resetPc.hookReplies = s.hookReplies := rfl
@[simp] theorem State.resetPc_handlerCalls (s : State) : s.resetPc.handlerCalls = s.handlerCalls := rfl
@[simp] theorem State.resetPc_hookCalls (s : State) : s.resetPc.hookCalls = s.hookCalls := rfl

/-! ### startRun -/

@[simp] theorem State.startRun_cfg (prog : List Byte) (n : Nat) (s : State) : (s.startRun prog n).cfg = s.cfg := rfl
@[simp] theorem State.startRun_engState (prog : List Byte) (n : Nat) (s : State) : (s.startRun prog n).engState = .running := rfl
@[simp] theorem State.startRun_pc (prog : List Byte) (n : Nat) (s : State) : (s.startRun prog n).pc = 0 := rfl
@[simp] theorem State.startRun_totalLen (prog : List Byte) (n : Nat) (s : State) : (s.startRun prog n).totalLen = n := rfl
@[simp] theorem State.startRun_jmpValid (prog : List Byte) (n : Nat) (s : State) : (s.startRun prog n).jmpValid = false := rfl
@[simp] theorem State.startRun_jmpTarget (prog : List Byte) (n : Nat) (s : State) : (s.startRun prog n).jmpTarget = s.jmpTarget := rfl
@[simp] theorem State.startRun_termReq (prog : List Byte) (n : Nat) (s : State) : (s.startRun prog n).termReq = false := rfl
@[simp] theorem State.startRun_wdtHook (prog : List Byte) (n : Nat) (s : State) : (s.startRun prog n).wdtHook = s.wdtHook := rfl
@[simp] theorem State.startRun_result (prog : List Byte) (n : Nat) (s : State) : (s.startRun prog n).result = s.result := rfl
@[simp] theorem State.startRun_err (prog : List Byte) (n : Nat) (s : State) : (s.startRun prog n).err = .clear := rfl
@[simp] theorem State.startRun_record (prog : List Byte) (n : Nat) (s : State) : (s.startRun prog n).record = s.record := rfl
@[simp] theorem State.startRun_cur (prog : List Byte) (n : Nat) (s : State) : (s.startRun prog n).cur = s.cur := rfl
@[simp] theorem State.startRun_faultReason (prog : List Byte) (n : Nat) (s : State) : (s.startRun prog n).faultReason = s.faultReason := rfl
@[simp] theorem State.startRun_faultPc (prog : List Byte) (n : Nat) (s : State) : (s.startRun prog n).faultPc = s.faultPc := rfl
@[simp] theorem State.startRun_mem (prog : List Byte) (n : Nat) (s : State) : (s.startRun prog n).mem = .ofBytes prog := rfl
@[simp] theorem State.startRun_hostReqs (prog : List Byte) (n : Nat) (s : State) : (s.startRun prog n).hostReqs = s.hostReqs := rfl
@[simp] theorem State.startRun_lastErrorReply (prog : List Byte) (n : Nat) (s : State) : (s.startRun prog n).lastErrorReply = s.lastErrorReply := rfl
@[simp] theorem State.startRun_handlerReplies (prog : List Byte) (n : Nat) (s : State) : (s.startRun prog n).handlerReplies = s.handlerReplies := rfl
@[simp] theorem State.startRun_hookReplies (prog : List Byte) (n : Nat) (s : State) : (s.startRun prog n).hookReplies = s.hookReplies := rfl
@[simp] theorem State.startRun_handlerCalls (prog : List Byte) (n : Nat) (s : State) : (s.startRun prog n).handlerCalls = s.handlerCalls := rfl
@[simp] theorem State.startRun_hookCalls (prog : List Byte) (n : Nat) (s : State) : (s.startRun prog n).hookCalls = s.hookCalls := rfl

/-! ### wdtAbort: by WDT_POLICY only the error record differs -/

@[simp] theorem State.wdtAbort_cfg (s : State) : s.wdtAbort.cfg = s.cfg := by
  unfold State.wdtAbort; split <;> rfl
@[simp] theorem State.wdtAbort_engState (s : State) : s.wdtAbort.engState = .aborted := by
  unfold State.wdtAbort; split <;> rfl
@[simp] theorem State.wdtAbort_pc (s : State) : s.wdtAbort.pc = s.pc := by
  unfold State.wdtAbort; split <;> rfl
@[simp] theorem State.wdtAbort_totalLen (s : State) : s.wdtAbort.totalLen = s.totalLen := by
  unfold State.wdtAbort; split <;> rfl
@[simp] theorem State.wdtAbort_jmpValid (s : State) : s.wdtAbort.jmpValid = s.jmpValid := by
  unfold State.wdtAbort; split <;> rfl
@[simp] theorem State.wdtAbort_jmpTarget (s : State) : s.wdtAbort.jmpTarget = s.jmpTarget := by
  unfold State.wdtAbort; split <;> rfl
@[simp] theorem State.wdtAbort_termReq (s : State) : s.wdtAbort.termReq = s.termReq := by
  unfold State.wdtAbort; split <;> rfl
@[simp] theorem State.wdtAbort_wdtHook (s : State) : s.wdtAbort.wdtHook = s.wdtHook := by
  unfold State.wdtAbort; split <;> rfl
@[simp] theorem State.wdtAbort_result (s : State) : s.wdtAbort.result = .fail := by
  unfold State.wdtAbort; split <;> rfl
@[simp] theorem State.wdtAbort_record (s : State) : s.wdtAbort.record = s.record := by
  unfold State.wdtAbort; split <;> rfl
@[simp] theorem State.wdtAbort_cur (s : State) : s.wdtAbort.cur = s.cur := by
  unfold State.wdtAbort; split <;> rfl
@[simp] theorem State.wdtAbort_faultReason (s : State) : s.wdtAbort.faultReason = s.faultReason := by
  unfold State.wdtAbort; split <;> rfl
@[simp] theorem State.wdtAbort_faultPc (s : State) : s.wdtAbort.faultPc = s.faultPc := by
  unfold State.wdtAbort; split <;> rfl
@[simp] theorem State.wdtAbort_mem (s : State) : s.wdtAbort.mem = s.mem := by
  unfold State.wdtAbort; split <;> rfl
@[simp] theorem State.wdtAbort_hostReqs (s : State) : s.wdtAbort.hostReqs = s.hostReqs := by
  unfold State.wdtAbort; split <;> rfl
@[simp] theorem State.wdtAbort_lastErrorReply (s : State) : s.wdtAbort.lastErrorReply = s.lastErrorReply := by
  unfold State.wdtAbort; split <;> rfl
@[simp] theorem State.wdtAbort_handlerReplies (s : State) : s.wdtAbort.handlerReplies = s.handlerReplies := by
  unfold State.wdtAbort; split <;> rfl
@[simp] theorem State.wdtAbort_hookReplies (s : State) : s.wdtAbort.hookReplies = s.hookReplies := by
  unfold State.wdtAbort; split <;> rfl
@[simp] theorem State.wdtAbort_handlerCalls (s : State) : s.wdtAbort.handlerCalls = s.handlerCalls := by
  unfold State.wdtAbort; split <;> rfl
@[simp] theorem State.wdtAbort_hookCalls (s : State) : s.wdtAbort.hookCalls = s.hookCalls := by
  unfold State.wdtAbort; split <;> rfl

theorem State.wdtAbort_err (s : State) :
    s.wdtAbort.err = if s.cfg.wdtPolicy = .normalize then ⟨.watchdog, s.pc, .zero⟩ else s.err := by
  unfold State.wdtAbort
  cases s.cfg.wdtPolicy <;> simp

/-! ### the requests of one external call -/

theorem State.requestJumps_eq (ts : List JumpTarget) (s : State) :
    s.requestJumps ts =
      { s with jmpValid := s.jmpValid || !ts.isEmpty, jmpTarget := ts.getLastD s.jmpTarget } := by
  unfold State.requestJumps
  induction ts generalizing s with
  | nil => simp
  | cons t ts ih =>
    rw [List.foldl_cons, ih, List.getLastD_cons]
    simp only [State.requestJump, List.isEmpty_cons, Bool.not_false, Bool.true_or, Bool.or_true]

theorem State.requestStopIf_eq (stop : Bool) (s : State) :
    s.requestStopIf stop = { s with termReq := s.termReq || stop } := by
  cases stop <;> simp [State.requestStopIf, State.requestStop]

theorem State.setWatchdogIf_eq (h : Option (Option HookId)) (s : State) :
    s.setWatchdogIf h = { s with wdtHook := h.getD s.wdtHook } := by
  cases h <;> simp [State.setWatchdogIf, State.setWatchdog]

/-- All that the requests of a call write. -/
theorem State.applyRequests_eq (r : Requests) (s : State) :
    s.applyRequests r =
      { s with jmpValid := s.jmpValid || !r.jumps.isEmpty, jmpTarget := r.jumps.getLastD s.jmpTarget,
               termReq := s.termReq || r.stop, wdtHook := r.hook.getD s.wdtHook,
               mem := s.mem.overlay r.prog } := by
  simp [State.applyRequests, State.requestJumps_eq, State.requestStopIf_eq, State.setWatchdogIf_eq,
    State.writeProgram]

@[simp] theorem State.applyRequests_cfg (r : Requests) (s : State) : (s.applyRequests r).cfg = s.cfg := by
  rw [State.applyRequests_eq]
@[simp] theorem State.applyRequests_engState (r : Requests) (s : State) : (s.applyRequests r).engState = s.engState := by
  rw [State.applyRequests_eq]
@[simp] theorem State.applyRequests_pc (r : Requests) (s : State) : (s.applyRequests r).pc = s.pc := by
  rw [State.applyRequests_eq]
@[simp] theorem State.applyRequests_totalLen (r : Requests) (s : State) : (s.applyRequests r).totalLen = s.totalLen := by
  rw [State.applyRequests_eq]
@[simp] theorem State.applyRequests_jmpValid (r : Requests) (s : State) : (s.applyRequests r).jmpValid = (s.jmpValid || !r.jumps.isEmpty) := by
  rw [State.applyRequests_eq]
@[simp] theorem State.applyRequests_jmpTarget (r : Requests) (s : State) : (s.applyRequests r).jmpTarget = r.jumps.getLastD s.jmpTarget := by
  rw [State.applyRequests_eq]
@[simp] theorem State.applyRequests_termReq (r : Requests) (s : State) : (s.applyRequests r).termReq = (s.termReq || r.stop) := by
  rw [State.applyRequests_eq]
@[simp] theorem State.applyRequests_wdtHook (r : Requests) (s : State) : (s.applyRequests r).wdtHook = r.hook.getD s.wdtHook := by
  rw [State.applyRequests_eq]
@[simp] theorem State.applyRequests_result (r : Requests) (s : State) : (s.applyRequests r).result = s.result := by
  rw [State.applyRequests_eq]
@[simp] theorem State.applyRequests_err (r : Requests) (s : State) : (s.applyRequests r).err = s.err := by
  rw [State.applyRequests_eq]
@[simp] theorem State.applyRequests_record (r : Requests) (s : State) : (s.applyRequests r).record = s.record := by
  rw [State.applyRequests_eq]
@[simp] theorem State.applyRequests_cur (r : Requests) (s : State) : (s.applyRequests r).cur = s.cur := by
  rw [State.applyRequests_eq]
@[simp] theorem State.applyRequests_faultReason (r : Requests) (s : State) : (s.applyRequests r).faultReason = s.faultReason := by
  rw [State.applyRequests_eq]
@[simp] theorem State.applyRequests_faultPc (r : Requests) (s : State) : (s.applyRequests r).faultPc = s.faultPc := by
  rw [State.applyRequests_eq]
@[simp] theorem State.applyRequests_mem (r : Requests) (s : State) : (s.applyRequests r).mem = s.mem.overlay r.prog := by
  rw [State.applyRequests_eq]
@[simp] theorem State.applyRequests_hostReqs (r : Requests) (s : State) : (s.applyRequests r).hostReqs = s.hostReqs := by
  rw [State.applyRequests_eq]
@[simp] theorem State.applyRequests_lastErrorReply (r : Requests) (s : State) : (s.applyRequests r).lastErrorReply = s.lastErrorReply := by
  rw [State.applyRequests_eq]
@[simp] theorem State.applyRequests_handlerReplies (r : Requests) (s : State) : (s.applyRequests r).handlerReplies = s.handlerReplies := by
  rw [State.applyRequests_eq]
@[simp] theorem State.applyRequests_hookReplies (r : Requests) (s : State) : (s.applyRequests r).hookReplies = s.hookReplies := by
  rw [State.applyRequests_eq]
@[simp] theorem State.applyRequests_handlerCalls (r : Requests) (s : State) : (s.applyRequests r).handlerCalls = s.handlerCalls := by
  rw [State.applyRequests_eq]
@[simp] theorem State.applyRequests_hookCalls (r : Requests) (s : State) : (s.applyRequests r).hookCalls = s.hookCalls := by
  rw [State.applyRequests_eq]

end Sys2Proof.Machine
end

