-- ==== Sys2Proof/Laws/Memory.lean ====
section
/-! SUPPORT. The laws of the program buffer: reads after each operation, the canonical form kept, fetch. -/

namespace Sys2Proof.Machine

theorem Memory.read_eq_lookup (m : Memory) (off : Nat) : m.read off = m.lookup off := by
  unfold Memory.read Memory.unlisted
  cases m.lookup off <;> rfl

theorem Memory.read_overlay (m : Memory) (img : List Host.Cell) (off : Nat) :
    (m.overlay img).read off = (m.read off).map fun b => (img.lookup off).getD b := by
  simp only [Memory.read_eq_lookup, Memory.overlay]
  induction m with
  | nil => rfl
  | cons c m ih =>
    obtain ⟨a, b⟩ := c
    simp only [List.map_cons, List.lookup_cons, ih]
    cases h : off == a
    · rfl
    · rw [eq_of_beq h]
      rfl

theorem Memory.overlay_keeps_wf {m : Memory} (img : List Host.Cell) (h : m.wf) : (m.overlay img).wf := by
  unfold Memory.wf Memory.overlay at *
  rw [List.pairwise_map]
  exact h

theorem Memory.overlay_keeps_covers (m : Memory) (img : List Host.Cell) (n : Nat) :
    (m.overlay img).covers n = m.covers n := by
  simp [Memory.covers, Memory.read_overlay]

theorem Memory.covers_iff (m : Memory) (n : Nat) :
    m.covers n = true ↔ ∀ off, off < n → ∃ b, m.read off = some b := by
  simp [Memory.covers, Option.isSome_iff_exists]

theorem Memory.ofBytesFrom_offsets (off : Nat) (bs : List Byte) :
    ∀ c ∈ Memory.ofBytesFrom off bs, off ≤ c.1 := by
  induction bs generalizing off with
  | nil => intro c hc; cases hc
  | cons b bs ih =>
    intro c hc
    rcases List.mem_cons.1 hc with rfl | hc
    · exact Nat.le_refl _
    · exact Nat.le_of_succ_le (ih (off + 1) c hc)

theorem Memory.ofBytesFrom_wf (off : Nat) (bs : List Byte) : (Memory.ofBytesFrom off bs).wf := by
  induction bs generalizing off with
  | nil => exact List.Pairwise.nil
  | cons b bs ih =>
    exact List.Pairwise.cons (fun c hc => Memory.ofBytesFrom_offsets (off + 1) bs c hc) (ih (off + 1))

theorem Memory.ofBytes_wf (bs : List Byte) : (Memory.ofBytes bs).wf := Memory.ofBytesFrom_wf 0 bs

theorem Memory.read_ofBytesFrom (off k : Nat) (bs : List Byte) :
    (Memory.ofBytesFrom off bs).read (off + k) = bs[k]? := by
  rw [Memory.read_eq_lookup]
  induction bs generalizing off k with
  | nil => rfl
  | cons b bs ih =>
    rw [Memory.ofBytesFrom, List.lookup_cons]
    cases k with
    | zero => simp
    | succ k =>
      have hne : (off + (k + 1) == off) = false := by simp
      rw [hne, show off + (k + 1) = off + 1 + k by omega, ih]
      simp

theorem Memory.read_ofBytes (off : Nat) (bs : List Byte) : (Memory.ofBytes bs).read off = bs[off]? := by
  have h := Memory.read_ofBytesFrom 0 off bs
  rwa [Nat.zero_add] at h

theorem Memory.ofBytes_covers {bs : List Byte} {n : Nat} (h : n ≤ bs.length) :
    (Memory.ofBytes bs).covers n = true := by
  rw [Memory.covers_iff]
  intro off hoff
  exact ⟨bs[off]'(by omega), by rw [Memory.read_ofBytes, List.getElem?_eq_getElem]⟩

/-- What a fetch of `n` bytes gives: as many bytes, each the buffer's. -/
theorem Memory.readBytes_spec {m : Memory} {off n : Nat} {bs : List Byte} (h : m.readBytes off n = some bs) :
    bs.length = n ∧ ∀ k, k < n → m.read (off + k) = bs[k]? := by
  induction n generalizing off bs with
  | zero =>
    cases h
    exact ⟨rfl, fun k hk => absurd hk (Nat.not_lt_zero k)⟩
  | succ n ih =>
    rw [Memory.readBytes] at h
    split at h
    · rename_i b bs' hb hbs
      cases h
      obtain ⟨hl, hr⟩ := ih hbs
      refine ⟨by simp [hl], fun k hk => ?_⟩
      cases k with
      | zero => simpa using hb
      | succ k =>
        rw [show off + (k + 1) = off + 1 + k by omega, hr k (by omega)]
        simp
    · cases h

/-- A fetch of bytes that are all there succeeds. -/
theorem Memory.readBytes_total {m : Memory} {off n : Nat}
    (h : ∀ k, k < n → ∃ b, m.read (off + k) = some b) : ∃ bs, m.readBytes off n = some bs := by
  induction n generalizing off with
  | zero => exact ⟨[], rfl⟩
  | succ n ih =>
    obtain ⟨b, hb⟩ := h 0 (by omega)
    obtain ⟨bs, hbs⟩ := ih (off := off + 1) fun k hk => by
      have := h (k + 1) (by omega)
      rwa [show off + (k + 1) = off + 1 + k by omega] at this
    rw [Nat.add_zero] at hb
    exact ⟨b :: bs, by rw [Memory.readBytes, hb, hbs]⟩

theorem State.window_length {s : State} {bytes : List Byte} (h : s.window = some bytes) :
    bytes.length = min maxLen (s.totalLen - s.pc) := (Memory.readBytes_spec h).1

end Sys2Proof.Machine
end

