-- ==== Sys2Proof/Laws/Cycle.lean ====
section
/-! SUPPORT. Everything that the arbiter, an instruction and a step can do, each said once. -/

namespace Sys2Proof.Machine

/-! ### The arbiter -/

/-- All that steps e to h can do with a handler's signal (42_sequencer.md R187). -/
theorem State.arbitrate_cases (resp : Resp) (s : State) :
    (resp = .error ∧ s.arbitrate resp = s.abort .handler s.pc s.record) ∨
    (resp ≠ .error ∧ s.totalLen ≤ s.pc ∧ s.arbitrate resp = s.abort .boundsAnomaly s.pc s.record) ∨
    (resp ≠ .error ∧ s.pc < s.totalLen ∧ s.jmpValid = true ∧ s.totalLen ≤ s.jmpTarget.toNat ∧
      s.arbitrate resp = s.abort .invalidJump s.pc s.record) ∨
    (resp ≠ .error ∧ s.pc < s.totalLen ∧ s.jmpValid = true ∧ s.jmpTarget.toNat < s.totalLen ∧
      s.arbitrate resp = s.takeJump) ∨
    (resp = .ok ∧ s.pc < s.totalLen ∧ s.jmpValid = false ∧ s.arbitrate resp = s.advance) ∨
    (resp = .endRun ∧ s.pc < s.totalLen ∧ s.jmpValid = false ∧ s.arbitrate resp = s.halt) ∨
    (resp = .reset ∧ s.pc < s.totalLen ∧ s.jmpValid = false ∧ s.arbitrate resp = s.resetPc) := by
  unfold State.arbitrate State.jumpOrAbort
  by_cases hpc : s.totalLen ≤ s.pc
  · cases resp <;> simp [hpc]
  · cases hj : s.jmpValid
    · cases resp <;> simp [hpc, State.signal, Nat.not_le.1 hpc]
    · by_cases ht : s.totalLen ≤ s.jmpTarget.toNat
      · cases resp <;> simp [hpc, ht, Nat.not_le.1 hpc]
      · cases resp <;> simp [hpc, ht, Nat.not_le.1 hpc, Nat.not_le.1 ht]

/-! The arbiter writes ENG_STATE, PC, RESULT, the error record and JMP_VALID only. -/

section ArbiterFrame
variable (resp : Resp) (s : State)

theorem State.arbitrate_frame :
    s.arbitrate resp =
      { s with engState := (s.arbitrate resp).engState, pc := (s.arbitrate resp).pc,
               result := (s.arbitrate resp).result, err := (s.arbitrate resp).err,
               jmpValid := (s.arbitrate resp).jmpValid } := by
  rcases State.arbitrate_cases resp s with ⟨_, h⟩ | ⟨_, _, h⟩ | ⟨_, _, _, _, h⟩ | ⟨_, _, _, _, h⟩ |
    ⟨_, _, _, h⟩ | ⟨_, _, _, h⟩ | ⟨_, _, _, h⟩ <;> rw [h] <;> rfl

@[simp] theorem State.arbitrate_cfg : (s.arbitrate resp).cfg = s.cfg := by
  rw [State.arbitrate_frame]
@[simp] theorem State.arbitrate_totalLen : (s.arbitrate resp).totalLen = s.totalLen := by
  rw [State.arbitrate_frame]
@[simp] theorem State.arbitrate_jmpTarget : (s.arbitrate resp).jmpTarget = s.jmpTarget := by
  rw [State.arbitrate_frame]
@[simp] theorem State.arbitrate_termReq : (s.arbitrate resp).termReq = s.termReq := by
  rw [State.arbitrate_frame]
@[simp] theorem State.arbitrate_wdtHook : (s.arbitrate resp).wdtHook = s.wdtHook := by
  rw [State.arbitrate_frame]
@[simp] theorem State.arbitrate_record : (s.arbitrate resp).record = s.record := by
  rw [State.arbitrate_frame]
@[simp] theorem State.arbitrate_cur : (s.arbitrate resp).cur = s.cur := by
  rw [State.arbitrate_frame]
@[simp] theorem State.arbitrate_faultReason : (s.arbitrate resp).faultReason = s.faultReason := by
  rw [State.arbitrate_frame]
@[simp] theorem State.arbitrate_faultPc : (s.arbitrate resp).faultPc = s.faultPc := by
  rw [State.arbitrate_frame]
@[simp] theorem State.arbitrate_mem : (s.arbitrate resp).mem = s.mem := by
  rw [State.arbitrate_frame]
@[simp] theorem State.arbitrate_hostReqs : (s.arbitrate resp).hostReqs = s.hostReqs := by
  rw [State.arbitrate_frame]
@[simp] theorem State.arbitrate_lastErrorReply : (s.arbitrate resp).lastErrorReply = s.lastErrorReply := by
  rw [State.arbitrate_frame]
@[simp] theorem State.arbitrate_handlerReplies : (s.arbitrate resp).handlerReplies = s.handlerReplies := by
  rw [State.arbitrate_frame]
@[simp] theorem State.arbitrate_hookReplies : (s.arbitrate resp).hookReplies = s.hookReplies := by
  rw [State.arbitrate_frame]
@[simp] theorem State.arbitrate_handlerCalls : (s.arbitrate resp).handlerCalls = s.handlerCalls := by
  rw [State.arbitrate_frame]
@[simp] theorem State.arbitrate_hookCalls : (s.arbitrate resp).hookCalls = s.hookCalls := by
  rw [State.arbitrate_frame]

end ArbiterFrame

/-! ### One instruction -/

/-- The state in which the arbiter decides: CUR and REC written, the handler called, its requests applied. -/
def State.afterCall (s : State) (c : Cur) (r : InstrRecord) (o : HandlerOutcome) : State :=
  ((s.latch c r).countHandlerCall).applyRequests o.reqs

/-- A format instruction is its decode result and its layout, dispatched. -/
theorem exec_format {i : Instr} {op : Byte} {b : Layout} (s : State) (h : i.format = some (op, b)) :
    exec i s = s.runFormat (i.cur s.cfg) b := by
  cases i <;> cases h <;> rfl

theorem exec_undefined (bytes : List Byte) (s : State) :
    exec (.undefinedOpcode bytes) s = .next (s.enterFault .undefinedOpcode) := rfl

/-- A format instruction of the build calls its handler. -/
theorem exec_of_cur {i : Instr} {s : State} {c : Cur} {op : Byte} {b : Layout} (hc : i.cur s.cfg = some c)
    (hf : i.format = some (op, b)) : exec i s = s.dispatch c (fillRecord c.idx b) := by
  rw [exec_format s hf, hc]
  rfl

/-- Where the handler returns, an instruction completes: the arbiter decides on the state after the call. -/
theorem exec_of_dispatches {i : Instr} {s : State} {c : Cur} {r : InstrRecord} {o : HandlerOutcome}
    (h : Dispatches i s c r o) : exec i s = .next ((s.afterCall c r o).arbitrate o.resp) := by
  obtain ⟨op, b, hf, rfl⟩ := h.record
  rw [exec_of_cur h.cur hf]
  unfold State.dispatch
  rw [h.reply]
  rfl

/-- All that an instruction can do when it gives a next state. -/
theorem exec_next_cases {i : Instr} {s t : State} (h : exec i s = .next t) :
    t = s.enterFault .undefinedOpcode ∨
    ∃ c r o, Dispatches i s c r o ∧ t = (s.afterCall c r o).arbitrate o.resp := by
  cases hf : i.format with
  | none =>
    cases i <;> cases hf
    left
    rw [exec_undefined] at h
    exact (Host.Outcome.next.inj h).symm
  | some ob =>
    obtain ⟨op, b⟩ := ob
    cases hc : i.cur s.cfg with
    | none =>
      left
      rw [exec_format s hf, hc] at h
      exact (Host.Outcome.next.inj h).symm
    | some c =>
      right
      rw [exec_of_cur hc hf] at h
      unfold State.dispatch at h
      split at h
      · rename_i o hr
        exact ⟨c, _, o, ⟨hc, ⟨op, b, hf, rfl⟩, hr⟩, (Host.Outcome.next.inj h).symm⟩
      · cases h
      · cases h

/-! ### The cycle -/

/-- All that step a can hand to step b. -/
theorem State.atStepB_cases {s u : State} (h : s.atStepB = some u) :
    (s.wdtHook = none ∧ u = s) ∨
    ∃ hk o, s.wdtHook = some hk ∧ s.hookReply hk = .returned o ∧ o.ok = true ∧
      u = s.countHookCall.applyRequests o.reqs := by
  unfold State.atStepB at h
  split at h
  · rename_i hw
    exact .inl ⟨hw, (Option.some.inj h).symm⟩
  · rename_i hk hw
    split at h
    · rename_i o hr
      split at h
      · rename_i hok
        exact .inr ⟨hk, o, hw, hr, hok, (Option.some.inj h).symm⟩
      · cases h
    · cases h
    · cases h

/-- What step a leaves alone. -/
theorem State.atStepB_frame {s u : State} (h : s.atStepB = some u) :
    u.cfg = s.cfg ∧ u.engState = s.engState ∧ u.pc = s.pc ∧ u.totalLen = s.totalLen ∧ u.result = s.result ∧
    u.err = s.err ∧ u.record = s.record ∧ u.cur = s.cur ∧ u.faultReason = s.faultReason ∧
    u.faultPc = s.faultPc ∧ u.hostReqs = s.hostReqs ∧ u.lastErrorReply = s.lastErrorReply ∧
    u.handlerReplies = s.handlerReplies ∧ u.handlerCalls = s.handlerCalls ∧
    ∃ img, u.mem = s.mem.overlay img ∨ u.mem = s.mem := by
  obtain ⟨_, rfl⟩ | ⟨hk, o, _, _, _, rfl⟩ := State.atStepB_cases h
  · simp
  · simp only [State.applyRequests_cfg, State.countHookCall_cfg, State.applyRequests_engState,
      State.countHookCall_engState, State.applyRequests_pc, State.countHookCall_pc, State.applyRequests_totalLen,
      State.countHookCall_totalLen, State.applyRequests_result, State.countHookCall_result,
      State.applyRequests_err, State.countHookCall_err, State.applyRequests_record, State.countHookCall_record,
      State.applyRequests_cur, State.countHookCall_cur, State.applyRequests_faultReason,
      State.countHookCall_faultReason, State.applyRequests_faultPc, State.countHookCall_faultPc,
      State.applyRequests_hostReqs, State.countHookCall_hostReqs, State.applyRequests_lastErrorReply,
      State.countHookCall_lastErrorReply, State.applyRequests_handlerReplies, State.countHookCall_handlerReplies,
      State.applyRequests_handlerCalls, State.countHookCall_handlerCalls, State.applyRequests_mem,
      State.countHookCall_mem, true_and]
    exact ⟨o.reqs.prog, .inl rfl⟩

/-- A cycle whose step a goes on is step b at the state that step a leaves. -/
theorem step_of_atStepB {s u : State} (hr : s.engState = .running) (hp : s.pc < s.totalLen)
    (h : s.atStepB = some u) : step s = u.stopOrFetch := by
  unfold step
  rw [hr]
  simp only [State.cycle, if_pos hp, State.watchdogThenRest]
  obtain ⟨hw, rfl⟩ | ⟨hk, o, hw, hrep, hok, rfl⟩ := State.atStepB_cases h
  · rw [hw]
  · rw [hw]
    simp only [hrep, if_pos hok]

/-- A cycle that reaches step c fetches and runs at the state in which it is reached. -/
theorem step_of_reachesStepC {s u : State} (h : ReachesStepC s u) : step s = u.fetchAndExec := by
  rw [step_of_atStepB h.running h.inProgram h.afterHook]
  unfold State.stopOrFetch
  rw [if_neg (by simp [h.noStop])]

/-- All that a cycle can do when it gives a next state (42_sequencer.md R162). -/
theorem step_running_cases {s t : State} (hr : s.engState = .running) (h : step s = .next t) :
    (s.totalLen ≤ s.pc ∧ t = s.halt) ∨
    (s.pc < s.totalLen ∧ ∃ hk o, s.wdtHook = some hk ∧ s.hookReply hk = .returned o ∧ o.ok = false ∧
      t = (s.countHookCall.applyRequests o.reqs).wdtAbort) ∨
    (s.pc < s.totalLen ∧ ∃ u, s.atStepB = some u ∧ u.termReq = true ∧ t = u.clearStop.halt) ∨
    (∃ u op tail, ReachesStepC s u ∧ u.window = some (op :: tail) ∧
      ((resolve u.cfg op (op :: tail) = .undefined ∧ t = u.enterFault .undefinedOpcode) ∨
       (∃ c, resolve u.cfg op (op :: tail) = .resolved c ∧ tail.length + 1 < c.len ∧
         t = (u.latch c u.record).abort .length u.pc .zero) ∨
       ∃ c b rest o, resolve u.cfg op (op :: tail) = .resolved c ∧ c.len ≤ tail.length + 1 ∧
         decode u.cfg (op :: tail) = .ok (instrOfLayout u.cfg op b, rest) ∧ b.cls = c.cls ∧
         b.fitsMode u.cfg.mode = true ∧
         Dispatches (instrOfLayout u.cfg op b) u c (fillRecord c.idx b) o ∧
         t = (u.afterCall c (fillRecord c.idx b) o).arbitrate o.resp)) := by
  by_cases hp : s.pc < s.totalLen
  · right
    cases hB : s.atStepB with
    | none =>
      left
      unfold step at h
      rw [hr] at h
      simp only [State.cycle, if_pos hp, State.watchdogThenRest] at h
      unfold State.atStepB at hB
      cases hw : s.wdtHook with
      | none => rw [hw] at hB; cases hB
      | some hk =>
        simp only [hw] at h hB
        cases hrep : s.hookReply hk with
        | returned o =>
          simp only [hrep] at h hB
          cases hok : o.ok with
          | true => rw [if_pos hok] at hB; cases hB
          | false =>
            rw [if_neg (by simp [hok])] at h
            exact ⟨hp, hk, o, rfl, hrep, hok, (Host.Outcome.next.inj h).symm⟩
        | calledRun => simp only [hrep] at h; cases h
        | neverReturns => simp only [hrep] at h; cases h
    | some u =>
      right
      cases hs : u.termReq with
      | true =>
        left
        rw [step_of_atStepB hr hp hB] at h
        unfold State.stopOrFetch at h
        rw [if_pos hs] at h
        exact ⟨hp, u, rfl, hs, (Host.Outcome.next.inj h).symm⟩
      | false =>
        right
        have hC : ReachesStepC s u := ⟨hr, hp, hB, hs⟩
        rw [step_of_reachesStepC hC] at h
        unfold State.fetchAndExec at h
        cases hwin : u.window with
        | none => rw [hwin] at h; cases h
        | some bytes =>
          rw [hwin] at h
          cases bytes with
          | nil => cases h
          | cons op tail =>
            refine ⟨u, op, tail, hC, hwin, ?_⟩
            obtain ⟨hres, hd⟩ | ⟨_, hd⟩ | ⟨_, hd⟩ | ⟨c, hres, hl, hd⟩ | ⟨c, b, rest, hres, hl, hd, hcur, hb, hf, -⟩ :=
              decode_cases u.cfg op tail
            · simp only [hd, exec_undefined] at h
              exact .inl ⟨hres, (Host.Outcome.next.inj h).symm⟩
            · simp only [hd] at h; cases h
            · simp only [hd] at h; cases h
            · simp only [hd] at h
              exact .inr (.inl ⟨c, hres, hl, (Host.Outcome.next.inj h).symm⟩)
            · simp only [hd] at h
              right; right
              have hfmt := instrOfLayout_format (cfg := u.cfg) op b
              rw [exec_of_cur hcur hfmt] at h
              unfold State.dispatch at h
              split at h
              · rename_i o hrep
                exact ⟨c, b, rest, o, hres, hl, hd, hb, hf, ⟨hcur, ⟨op, b, hfmt, rfl⟩, hrep⟩,
                  (Host.Outcome.next.inj h).symm⟩
              · cases h
              · cases h
  · left
    unfold step at h
    rw [hr] at h
    simp only [State.cycle, if_neg hp] at h
    exact ⟨Nat.not_lt.1 hp, (Host.Outcome.next.inj h).symm⟩

/-- All that a step between runs can do when it gives a next state. -/
theorem step_between_cases {s t : State} (hb : s.betweenRuns = true) (h : step s = .next t) :
    (s.hostReqs = [] ∧ t = s) ∨
    ∃ r reqs, s.hostReqs = r :: reqs ∧
      ((∃ prog n, r = .run prog n ∧ configFlaw s.cfg = none ∧ n ≤ 2 ^ s.cfg.pcW - 1 ∧ n ≤ prog.length ∧
          t = State.startRun prog n { s with hostReqs := reqs }) ∨
       (r = .lastError ∧ s.engState = .ready ∧
          t = State.enterFault .unwrittenErrorRecord { s with hostReqs := reqs }) ∨
       (r = .lastError ∧ s.engState ≠ .ready ∧ t = { s with hostReqs := reqs, lastErrorReply := some s.err }) ∨
       (∃ v, r = .setWatchdog v ∧ t = State.setWatchdog v { s with hostReqs := reqs }) ∨
       (r = .requestStop ∧ t = State.requestStop { s with hostReqs := reqs }) ∨
       (∃ x, r = .requestJump x ∧ t = State.requestJump x { s with hostReqs := reqs })) := by
  have hidle : step s = s.idle := by
    unfold step
    unfold State.betweenRuns at hb
    cases he : s.engState <;> simp_all
  have hne : s.engState ≠ .running := by
    intro he
    simp [State.betweenRuns, he] at hb
  rw [hidle] at h
  unfold State.idle at h
  cases hq : s.hostReqs with
  | nil =>
    rw [hq] at h
    exact .inl ⟨rfl, (Host.Outcome.next.inj h).symm⟩
  | cons r reqs =>
    rw [hq] at h
    refine .inr ⟨r, reqs, rfl, ?_⟩
    cases r with
    | run prog n =>
      left
      simp only [State.serve, State.hostRun, if_neg hne] at h
      cases hc : configFlaw s.cfg with
      | some flaw => simp only [hc] at h; cases h
      | none =>
        simp only [hc] at h
        split at h
        · cases h
        · split at h
          · cases h
          · exact ⟨prog, n, rfl, rfl, by omega, by omega, (Host.Outcome.next.inj h).symm⟩
    | lastError =>
      simp only [State.serve, State.hostLastError] at h
      split at h
      · rename_i he
        exact .inr (.inl ⟨rfl, he, (Host.Outcome.next.inj h).symm⟩)
      · rename_i he
        exact .inr (.inr (.inl ⟨rfl, he, (Host.Outcome.next.inj h).symm⟩))
    | setWatchdog v => exact .inr (.inr (.inr (.inl ⟨v, rfl, (Host.Outcome.next.inj h).symm⟩)))
    | requestStop => exact .inr (.inr (.inr (.inr (.inl ⟨rfl, (Host.Outcome.next.inj h).symm⟩))))
    | requestJump x => exact .inr (.inr (.inr (.inr (.inr ⟨x, rfl, (Host.Outcome.next.inj h).symm⟩))))

/-- A state is in a run, between runs, or faulted; a faulted one has no next state. -/
theorem step_engState_cases {s t : State} (h : step s = .next t) :
    s.engState = .running ∨ s.betweenRuns = true := by
  unfold State.betweenRuns
  cases he : s.engState with
  | faulted => unfold step at h; rw [he] at h; cases h
  | _ => simp

end Sys2Proof.Machine
end

