-- ==== Sys2Proof/Laws/PerInstr.lean ====
section
/-! SUPPORT. Statements made of every instruction, one lemma per constructor. -/

namespace Sys2Proof.Laws.EncodeLength

/-- In every build that has the instruction, its encoding is as long as its decode result says, which is the
length of its class (30_encoding.md R74). -/
def Statement (i : Instr) : Prop :=
  ∀ (cfg : Config) (c : Cur), i.cur cfg = some c →
    (encode i).length = c.len ∧ lenOf cfg.mode c.cls = some c.len

/-- The one argument, whatever the format. -/
theorem of_cur {i : Instr} {cfg : Config} {c : Cur} (h : i.cur cfg = some c) :
    (encode i).length = c.len ∧ lenOf cfg.mode c.cls = some c.len := by
  have hlen := (cur_bounds h).1
  obtain ⟨op, b, hf, hfit, -, hcls, -⟩ := cur_cases h
  rw [hcls, Layout.lenOf_of_fits hfit] at hlen
  rw [encode_of_format hf, List.length_cons, Option.some.inj hlen]
  exact ⟨rfl, (cur_bounds h).1⟩

theorem classNoneC0 (op : Byte) : Statement (.classNoneC0 op) := fun _ _ => of_cur
theorem classNarrowC1 (op raw : Byte) : Statement (.classNarrowC1 op raw) := fun _ _ => of_cur
theorem classSingleC2 (op t1 : Byte) (v1 : Half) : Statement (.classSingleC2 op t1 v1) := fun _ _ => of_cur
theorem classDualC3 (op t1 : Byte) (v1 : Half) (t2 : Byte) (v2 : Half) (pad : Byte) :
    Statement (.classDualC3 op t1 v1 t2 v2 pad) := fun _ _ => of_cur
theorem classNoneX0 (op : Byte) : Statement (.classNoneX0 op) := fun _ _ => of_cur
theorem classNarrowX1 (op raw : Byte) : Statement (.classNarrowX1 op raw) := fun _ _ => of_cur
theorem classSingleX2 (op t1 : Byte) (v1 : Wide) : Statement (.classSingleX2 op t1 v1) := fun _ _ => of_cur
theorem classDualX3 (op t1 : Byte) (v1 : Wide) (t2 : Byte) (v2 : Wide) :
    Statement (.classDualX3 op t1 v1 t2 v2) := fun _ _ => of_cur
theorem classDualExtX4 (op t1 : Byte) (v1 : Wide) (t2 : Byte) (v2 : Wide) (t3 : Byte) (v3 : Wide) :
    Statement (.classDualExtX4 op t1 v1 t2 v2 t3 v3) := fun _ _ => of_cur
theorem undefinedOpcode (bytes : List Byte) : Statement (.undefinedOpcode bytes) := fun _ _ => of_cur
theorem fixedLength (op : Byte) (body : Layout) : Statement (.fixedLength op body) := fun _ _ => of_cur

end Sys2Proof.Laws.EncodeLength
end

