-- ==== Sys2Proof/Laws/Runs.lean ====
section
/-! SUPPORT. Runs of several steps, one step at a time. -/

namespace Sys2Proof.Machine

theorem run_next {s t : State} (k : Nat) (h : step s = .next t) :
    Sys2Proof.core.run (k + 1) s = Sys2Proof.core.run k t := by
  have h' : Sys2Proof.core.step s = .next t := h
  simp only [Host.Core.run, h']

theorem run_fault {s : State} {r : Fault} (k : Nat) (h : step s = .fault r) :
    Sys2Proof.core.run (k + 1) s = .fault r := by
  have h' : Sys2Proof.core.step s = .fault r := h
  simp only [Host.Core.run, h']

theorem run_refused {s : State} {r : Refusal} (k : Nat) (h : step s = .refused r) :
    Sys2Proof.core.run (k + 1) s = .refused r := by
  have h' : Sys2Proof.core.step s = .refused r := h
  simp only [Host.Core.run, h']

/-- Between runs a step serves the host. -/
theorem step_of_betweenRuns {s : State} (hb : s.betweenRuns = true) :
    step s = s.idle ∧ s.engState ≠ .running := by
  unfold State.betweenRuns at hb
  unfold step
  cases he : s.engState <;> simp_all

/-- RUN in a build that the model takes, of a length that PC_W bits and the buffer hold, starts the run. -/
theorem State.hostRun_next {s : State} {prog : List Byte} {n : Nat} (he : s.engState ≠ .running)
    (hc : configFlaw s.cfg = none) (hn : n ≤ 2 ^ s.cfg.pcW - 1) (hl : n ≤ prog.length) :
    s.hostRun prog n = .next (s.startRun prog n) := by
  unfold State.hostRun
  rw [if_neg he, hc]
  simp only [if_neg (Nat.not_lt.2 hn), if_neg (Nat.not_lt.2 hl)]

/-- RUN of a length that overstates the buffer is refused. -/
theorem State.hostRun_overstated {s : State} {prog : List Byte} {n : Nat} (he : s.engState ≠ .running)
    (hc : configFlaw s.cfg = none) (hn : n ≤ 2 ^ s.cfg.pcW - 1) (hl : prog.length < n) :
    s.hostRun prog n = .refused .lengthOverstatesBuffer := by
  unfold State.hostRun
  rw [if_neg he, hc]
  simp only [if_neg (Nat.not_lt.2 hn), if_pos hl]

end Sys2Proof.Machine
end

