-- ==== Sys2Proof/Tests/Slice0.lean ====
section
/-! SUPPORT. Tests. Words, programs and expected results are those of 95_test_vectors.md, named in each
docstring, or worked out by hand from the encodings of 30_encoding.md R72; then a witness for the hypotheses
of every obligation that has some. -/

namespace Sys2Proof.Tests

open Machine

/-! ## Fixtures (95_test_vectors.md section 1); a handler is named by its table index -/

/-- The entries of table FX. -/
def tableFX : List (Nat × Slot) :=
  [(0x00, ⟨0x00, 0⟩), (0x01, ⟨0x01, 0⟩), (0x02, ⟨0x02, 0⟩), (0x03, ⟨0x03, 0⟩), (0x04, ⟨0x04, 0⟩),
   (0x05, ⟨0x05, 0⟩), (0x10, ⟨0x10, 1⟩), (0x20, ⟨0x20, 2⟩), (0x21, ⟨0x21, 2⟩), (0x22, ⟨0x22, 2⟩),
   (0x23, ⟨0x23, 2⟩), (0x24, ⟨0x24, 2⟩), (0x25, ⟨0x25, 2⟩), (0x26, ⟨0x26, 2⟩), (0x27, ⟨0x27, 2⟩),
   (0x30, ⟨0x30, 3⟩)]

def buildFX : Config := { Config.reference with table := tableFX }
def buildFX1 : Config := { buildFX with extBits := 1, table := (0x126, ⟨0x126, 2⟩) :: tableFX }
def buildFXX : Config := { buildFX with mode := .extended, table := (0x32, ⟨0x32, 4⟩) :: tableFX }
/-- The fixed-length build of section 3.8. -/
def buildFL : Config := { buildFX with varlen := false }

/-- A run of program `prog` in progress at PC 0, with the handlers' replies chosen. -/
def inRun (cfg : Config) (prog : List Byte) (replies : List HandlerReply) : State :=
  { State.reset with cfg := cfg, engState := .running, totalLen := prog.length, mem := .ofBytes prog,
                     handlerReplies := replies }

/-- A handler that returned `resp` and requested these jumps. -/
def handled (resp : Resp) (jumps : List JumpTarget) : HandlerReply := .returned ⟨resp, ⟨jumps, false, none, []⟩⟩

/-- A hook that returned `ok`, requested these jumps, and a stop if `stop`. -/
def hooked (ok : Bool) (jumps : List JumpTarget) (stop : Bool) : HookReply :=
  .returned ⟨ok, ⟨jumps, stop, none, []⟩⟩

/-- The same run with hook 7 installed and its reply chosen. -/
def withHook (s : State) (reply : HookReply) : State :=
  { s with wdtHook := some 7, hookReplies := [reply] }

def nextOf : Host.Outcome State Fault Refusal → Option State
  | .next s => some s
  | .fault _ => none
  | .refused _ => none

def refusalOf : Host.Outcome State Fault Refusal → Option Refusal
  | .refused r => some r
  | .next _ => none
  | .fault _ => none

def faultOf : Host.Outcome State Fault Refusal → Option Fault
  | .fault r => some r
  | .next _ => none
  | .refused _ => none

def decoded : Except DecodeError (Instr × List Byte) → Option (Instr × List Byte)
  | .ok x => some x
  | .error _ => none

def decodeErrorOf : Except DecodeError (Instr × List Byte) → Option DecodeError
  | .ok _ => none
  | .error e => some e

/-- What a step leaves: ENG_STATE, PC, RESULT, the error record, JMP_VALID. -/
def summary (s : State) : Option (EngState × Nat × RunResult × ErrorRecord × Bool) :=
  (nextOf (step s)).map fun t => (t.engState, t.pc, t.result, t.err, t.jmpValid)

/-- A record with only an opcode index and a destination value. -/
def recIV (idx : OpIndex) (v : Wide) : InstrRecord := ⟨idx, 0, v, 0, 0, 0, 0⟩

/-! ## Decoding: words of every row -/

/-- DC0. -/
theorem test_decode_classNoneC0 : decoded (decode buildFX [0x01]) = some (.classNoneC0 0x01, []) := by decide
/-- DC1. -/
theorem test_decode_classNarrowC1 :
    decoded (decode buildFX [0x10, 0x41, 0x77]) = some (.classNarrowC1 0x10 0x41, [0x77]) := by decide
/-- DC2. -/
theorem test_decode_classSingleC2 :
    decoded (decode buildFX [0x26, 0x05, 0x34, 0x12]) = some (.classSingleC2 0x26 0x05 0x1234, []) := by decide
/-- DC3p: the padding byte is kept as a field, and reaches no part of REC. -/
theorem test_decode_classDualC3 :
    decoded (decode buildFX [0x30, 0x01, 0xCD, 0xAB, 0x02, 0xEF, 0xBE, 0x5A]) =
      some (.classDualC3 0x30 0x01 0xABCD 0x02 0xBEEF 0x5A, []) := by decide
/-- DX0. -/
theorem test_decode_classNoneX0 : decoded (decode buildFXX [0x01]) = some (.classNoneX0 0x01, []) := by decide
/-- DX1. -/
theorem test_decode_classNarrowX1 :
    decoded (decode buildFXX [0x10, 0xFF]) = some (.classNarrowX1 0x10 0xFF, []) := by decide
/-- DX2. -/
theorem test_decode_classSingleX2 :
    decoded (decode buildFXX [0x26, 0x00, 0x78, 0x56, 0x34, 0x12]) =
      some (.classSingleX2 0x26 0x00 0x12345678, []) := by decide
/-- DX3. -/
theorem test_decode_classDualX3 :
    decoded (decode buildFXX [0x30, 0x01, 0x04, 0x03, 0x02, 0x01, 0x02, 0x08, 0x07, 0x06, 0x05]) =
      some (.classDualX3 0x30 0x01 0x01020304 0x02 0x05060708, []) := by decide
/-- DX4. -/
theorem test_decode_classDualExtX4 :
    decoded (decode buildFXX
      [0x32, 0x01, 0x11, 0, 0, 0, 0x02, 0x22, 0, 0, 0, 0x03, 0x33, 0, 0, 0]) =
      some (.classDualExtX4 0x32 0x01 0x11 0x02 0x22 0x03 0x33, []) := by decide
/-- FD1: no class claims 7F. -/
theorem test_decode_undefinedOpcode :
    decoded (decode buildFX [0x7F]) = some (.undefinedOpcode [0x7F], []) := by decide
/-- FL2: a NARROW entry parsed with the DUAL layout. -/
theorem test_decode_fixedLength :
    decoded (decode buildFL [0x10, 0x41, 0, 0, 0, 0, 0, 0]) =
      some (.fixedLength 0x10 (.dual16 0x41 0 0 0 0), []) := by decide
/-- DV2 and DV3: high bits are not folded with EXT_BITS = 0, and the last byte is the highest. -/
theorem test_decode_high_bits :
    decoded (decode buildFX [0x26, 0x80, 0x00, 0x80]) = some (.classSingleC2 0x26 0x80 0x8000, []) ∧
    decoded (decode buildFXX [0x26, 0, 0, 0, 0, 0x80]) = some (.classSingleX2 0x26 0 0x80000000, []) := by
  decide
/-- BD6 and FL3: an instruction that runs past the end is none. -/
theorem test_decode_past_end :
    decodeErrorOf (decode buildFX [0x26, 0x00, 0x34]) = some (.pastEnd ⟨0x26, .single, 4, 0x26⟩) ∧
    decodeErrorOf (decode buildFL [0, 0, 0]) = some (.pastEnd ⟨0x00, .dual, 8, 0x00⟩) := by decide

/-! ## Folding and resolution -/

/-- FD3, FD4, FD5. -/
theorem test_resolve_folded :
    resolve buildFX1 0x26 [0x26, 0x80, 0x01, 0x00] = .resolved ⟨0x126, .single, 4, 0x126⟩ ∧
    resolve buildFX1 0x26 [0x26, 0x00, 0x01, 0x00] = .resolved ⟨0x26, .single, 4, 0x26⟩ ∧
    resolve buildFX1 0x20 [0x20, 0x80, 0x05, 0x00, 0x01, 0x00, 0x00, 0x00] = .undefined := by decide
/-- FD6, FD7: no folding with EXT_BITS = 0, nor for a class without a type byte. -/
theorem test_resolve_not_folded :
    resolve buildFX 0x20 [0x20, 0x80, 0x05, 0x00] = .resolved ⟨0x20, .single, 4, 0x20⟩ ∧
    resolve buildFX1 0x10 [0x10, 0xC1, 0x01] = .resolved ⟨0x10, .narrow, 2, 0x10⟩ := by decide
/-- FD8, FD9, FD10. -/
theorem test_foldIndex :
    foldIndex 3 .dualExt 0x32 true true true = 0x732 ∧ foldIndex 3 .dual 0x32 true true true = 0x332 ∧
    foldIndex 3 .single 0x32 true true true = 0x132 ∧ foldIndex 3 .noOperand 0x32 true true true = 0x32 ∧
    foldIndex 2 .dual 0x30 true true false = 0x330 ∧ foldIndex 2 .narrow 0x30 true true false = 0x30 ∧
    foldIndex 1 .dual 0x30 false true false = 0x30 := by decide
/-- FD15: the record of FD3 folds to the same index. -/
theorem test_dispatchIdx : dispatchIdx buildFX1 ⟨0x126, 0x80, 1, 0, 0, 0, 0⟩ .single = 0x126 := by decide
/-- GT1: at the last byte TYPE1 is past the end, and its bit counts as 0. -/
theorem test_gated_type_bit :
    resolve buildFX1 0x26 [0x26] = .resolved ⟨0x26, .single, 4, 0x26⟩ ∧
    decodeErrorOf (decode buildFX1 [0x26]) = some (.pastEnd ⟨0x26, .single, 4, 0x26⟩) := by decide
/-- FD11: two consistent classes. -/
theorem test_table_ambiguous :
    configFlaw { buildFX with extBits := 1, table := [(0x40, ⟨0xA, 0⟩), (0x140, ⟨0xB, 2⟩)] } =
      some .tableIllFormed := by
  rw [configFlaw_eq_fast]
  decide
/-- FD12, FD13, FL4. -/
theorem test_config_flaws :
    configFlaw { buildFX with table := [(0x40, ⟨0xA, 4⟩)] } = some .tableIllFormed ∧
    configFlaw { buildFX with extBits := 3 } = some .paramIllegal ∧
    configFlaw { buildFL with fixedLen := 3 } = some .fixedLenIllegal := by
  simp only [configFlaw_eq_fast]
  decide
/-- FD14: code 6 is no tag. -/
theorem test_illegal_code : resolve { buildFX with table := [(0x40, ⟨0xA, 6⟩)] } 0x40 [0x40] = .undefined := by
  decide
/-- The fixture builds are taken (section 1). -/
theorem test_fixture_builds :
    configFlaw buildFX = none ∧ configFlaw buildFX1 = none ∧ configFlaw buildFXX = none ∧
      configFlaw buildFL = none := by
  simp only [configFlaw_eq_fast]
  decide +kernel

/-! ## WellFormed: an ill-formed term for each check -/

theorem test_wf_accepts :
    WellFormed buildFX (.classSingleC2 0x26 0x05 0x1234) = true ∧
    WellFormed buildFXX (.classDualExtX4 0x32 1 2 3 4 5 6) = true ∧
    WellFormed buildFL (.fixedLength 0x10 (.dual16 0x41 0 0 0 0)) = true ∧
    WellFormed buildFX (.undefinedOpcode [0x7F]) = true := by decide
/-- The class of the entry is another one. -/
theorem test_wf_refuses_other_class : WellFormed buildFX (.classNarrowC1 0x26 0x05) = false := by decide
/-- No entry at the index. -/
theorem test_wf_refuses_absent_entry : WellFormed buildFX (.classSingleC2 0x7F 0x05 0) = false := by decide
/-- The entry is at another folded index. -/
theorem test_wf_refuses_folded_away : WellFormed buildFX1 (.classSingleC2 0x20 0x80 0) = false := by decide
/-- A format of the other MODE. -/
theorem test_wf_refuses_other_mode :
    WellFormed buildFX (.classSingleX2 0x26 0 0) = false ∧ WellFormed buildFXX (.classNoneC0 0x01) = false := by
  decide
/-- A format instruction in a fixed-length build, and the reverse. -/
theorem test_wf_refuses_varlen :
    WellFormed buildFL (.classDualC3 0x30 0 0 0 0 0) = false ∧
    WellFormed buildFX (.fixedLength 0x30 (.dual16 0 0 0 0 0)) = false := by decide
/-- A fixed-length layout of another class, of the other MODE, and an absent entry. -/
theorem test_wf_refuses_fixed_layout :
    WellFormed buildFL (.fixedLength 0x10 (.narrow 0)) = false ∧
    WellFormed buildFL (.fixedLength 0x10 (.dual32 0 0 0 0)) = false ∧
    WellFormed buildFL (.fixedLength 0x7F (.dual16 0 0 0 0 0)) = false := by decide
/-- No bytes, more than 16 bytes, and bytes that a class claims. -/
theorem test_wf_refuses_undefined :
    WellFormed buildFX (.undefinedOpcode []) = false ∧
    WellFormed buildFX (.undefinedOpcode (List.replicate 17 0x7F)) = false ∧
    WellFormed buildFX (.undefinedOpcode [0x01]) = false := by decide

/-! ## One step: the arbiter's rows (section 3.4), programs of 8 bytes -/

/-- A1. -/
theorem test_A1 : summary (inRun buildFX [0x03, 0, 0, 0, 0, 0, 0, 0] [handled .error []]) =
    some (.aborted, 0, .fail, ⟨.handler, 0, recIV 0x03 0⟩, false) := by decide
/-- A3: the target is not checked. -/
theorem test_A3 : summary (inRun buildFX [0x22, 0, 0xFF, 0xFF, 0, 0, 0, 0] [handled .error [0xFFFF]]) =
    some (.aborted, 0, .fail, ⟨.handler, 0, recIV 0x22 0xFFFF⟩, true) := by decide
/-- A4. -/
theorem test_A4 : summary (inRun buildFX [0x00, 0, 0, 0, 0, 0, 0, 0] [handled .ok []]) =
    some (.running, 1, .ok, .clear, false) := by decide
/-- A5. -/
theorem test_A5 : summary (inRun buildFX [0x20, 0, 5, 0, 0, 0, 0, 0] [handled .ok [5]]) =
    some (.running, 5, .ok, .clear, false) := by decide
/-- A6: a target of TOTAL_LEN is invalid. -/
theorem test_A6 : summary (inRun buildFX [0x20, 0, 8, 0, 0, 0, 0, 0] [handled .ok [8]]) =
    some (.aborted, 0, .fail, ⟨.invalidJump, 0, recIV 0x20 8⟩, true) := by decide
/-- A7. -/
theorem test_A7 : summary (inRun buildFX [0x01, 0, 0, 0, 0, 0, 0, 0] [handled .endRun []]) =
    some (.halted, 0, .ok, .clear, false) := by decide
/-- A8: the jump beats END. -/
theorem test_A8 : summary (inRun buildFX [0x21, 0, 5, 0, 0, 0, 0, 0] [handled .endRun [5]]) =
    some (.running, 5, .ok, .clear, false) := by decide
/-- A9. -/
theorem test_A9 : summary (inRun buildFX [0x21, 0, 9, 0, 0, 0, 0, 0] [handled .endRun [9]]) =
    some (.aborted, 0, .fail, ⟨.invalidJump, 0, recIV 0x21 9⟩, true) := by decide
/-- A10, from PC 1. -/
theorem test_A10 :
    summary { inRun buildFX [0x00, 0x02, 0, 0, 0, 0, 0, 0] [handled .reset []] with pc := 1 } =
      some (.running, 0, .ok, .clear, false) := by decide
/-- A11: the jump beats RESET. -/
theorem test_A11 : summary (inRun buildFX [0x23, 0, 5, 0, 0, 0, 0, 0] [handled .reset [5]]) =
    some (.running, 5, .ok, .clear, false) := by decide
/-- BD4: an EXTENDED target is compared whole. -/
theorem test_BD4 :
    summary (inRun buildFXX [0x20, 0, 0xFF, 0xFF, 0xFF, 0xFF, 0x01] [handled .ok [0xFFFFFFFF]]) =
      some (.aborted, 0, .fail, ⟨.invalidJump, 0, recIV 0x20 0xFFFFFFFF⟩, true) := by decide
/-- The last jump of one handler call wins (42_sequencer.md R175). -/
theorem test_last_jump_wins : summary (inRun buildFX [0x20, 0, 5, 0, 0, 0, 0, 0] [handled .ok [0xFFFF, 3]]) =
    some (.running, 3, .ok, .clear, false) := by decide

/-! ## One step: the records of each format -/

/-- REC and CUR after a step. -/
def parsed (s : State) : Option (InstrRecord × LenClass × Nat) :=
  (nextOf (step s)).map fun t => (t.record, t.cur.cls, t.cur.len)

/-- DC1: the raw byte is dst_type. -/
theorem test_record_DC1 : parsed (inRun buildFX [0x10, 0x41] [handled .ok []]) =
    some (⟨0x10, 0x41, 0, 0, 0, 0, 0⟩, .narrow, 2) := by decide
/-- DC3p: the padding byte is not in REC. -/
theorem test_record_DC3p :
    parsed (inRun buildFX [0x30, 0x01, 0xCD, 0xAB, 0x02, 0xEF, 0xBE, 0x5A] [handled .ok []]) =
      some (⟨0x30, 0x01, 0xABCD, 0x02, 0xBEEF, 0, 0⟩, .dual, 8) := by decide
/-- DV1: unsigned, not -1. -/
theorem test_record_DV1 : parsed (inRun buildFX [0x26, 0, 0xFF, 0xFF] [handled .ok []]) =
    some (recIV 0x26 0xFFFF, .single, 4) := by decide
/-- DX3. -/
theorem test_record_DX3 :
    parsed (inRun buildFXX [0x30, 0x01, 0x04, 0x03, 0x02, 0x01, 0x02, 0x08, 0x07, 0x06, 0x05]
      [handled .ok []]) = some (⟨0x30, 0x01, 0x01020304, 0x02, 0x05060708, 0, 0⟩, .dual, 11) := by decide
/-- DX4. -/
theorem test_record_DX4 :
    parsed (inRun buildFXX [0x32, 1, 0x11, 0, 0, 0, 2, 0x22, 0, 0, 0, 3, 0x33, 0, 0, 0] [handled .ok []]) =
      some (⟨0x32, 1, 0x11, 2, 0x22, 3, 0x33⟩, .dualExt, 16) := by decide
/-- FL2. -/
theorem test_record_FL2 : parsed (inRun buildFL [0x10, 0x41, 0, 0, 0, 0, 0, 0] [handled .ok []]) =
    some (⟨0x10, 0x41, 0, 0, 0, 0, 0⟩, .dual, 8) := by decide

/-! ## One step: faults, bounds, watchdog, stop, requests -/

/-- FD1. -/
theorem test_FD1 : (nextOf (step (inRun buildFX [0x7F] []))).map
    (fun t => (t.engState, t.faultReason, t.faultPc, t.handlerCalls)) =
      some (.faulted, some .undefinedOpcode, 0, 0) := by decide
/-- BD5 and BD6: an instruction that ends at TOTAL_LEN runs; one byte less and it is a LENGTH abort. -/
theorem test_BD5_BD6 :
    summary (inRun buildFX [0x26, 0, 0x34, 0x12] [handled .ok []]) = some (.running, 4, .ok, .clear, false) ∧
    summary (inRun buildFX [0x26, 0, 0x34] [handled .ok []]) =
      some (.aborted, 0, .fail, ⟨.length, 0, .zero⟩, false) := by decide
/-- P6 at its second instruction: the address is the current offset. -/
theorem test_P6 : summary { inRun buildFX [0x00, 0x26, 0x00, 0x34] [] with pc := 1 } =
    some (.aborted, 1, .fail, ⟨.length, 1, .zero⟩, false) := by decide
/-- BD7: the empty program. -/
theorem test_BD7 : summary (inRun buildFX [] []) = some (.halted, 0, .ok, .clear, false) := by decide
/-- WD1 and WD2 at the failing call, PC 6 of program P1. -/
theorem test_WD1_WD2 :
    summary { withHook (inRun buildFX [0x10, 0x41, 0x26, 0, 0x34, 0x12, 0x00] []) (hooked false [] false) with
      pc := 6 } = some (.aborted, 6, .fail, .clear, false) ∧
    summary { withHook (inRun { buildFX with wdtPolicy := .normalize }
      [0x10, 0x41, 0x26, 0, 0x34, 0x12, 0x00] []) (hooked false [] false) with pc := 6 } =
        some (.aborted, 6, .fail, ⟨.watchdog, 6, .zero⟩, false) := by decide
/-- WD3: the hook's stop is taken in the same cycle, and no handler is called. -/
theorem test_WD3 :
    (nextOf (step (withHook (inRun buildFX [0x10, 0x41] []) (hooked true [] true)))).map
      (fun t => (t.engState, t.pc, t.termReq, t.handlerCalls)) = some (.halted, 0, false, 0) := by decide
/-- WD4: the hook's jump is taken after the instruction has run. -/
theorem test_WD4 :
    (nextOf (step (withHook (inRun buildFX [0x10, 0x41, 0x00, 0x00] [handled .ok []]) (hooked true [3] false)))).map
      (fun t => (t.pc, t.jmpValid, t.handlerCalls, t.record)) =
        some (3, false, 1, ⟨0x10, 0x41, 0, 0, 0, 0, 0⟩) := by decide
/-- WD5: the watchdog abort wins over its own stop. -/
theorem test_WD5 : summary (withHook (inRun buildFX [0x10, 0x41] []) (hooked false [] true)) =
    some (.aborted, 0, .fail, .clear, false) := by decide
/-- RQ3. -/
theorem test_RQ3 : (nextOf (step { State.reset with hostReqs := [.lastError] })).map
    (fun t => (t.engState, t.faultReason)) = some (.faulted, some .unwrittenErrorRecord) := by decide
/-- RQ5. -/
theorem test_RQ5 : refusalOf (step (inRun buildFX [0x00] [.calledRun])) = some .reentrantRun := by decide
/-- 20_memory.md R59: a length that overstates the buffer by one. -/
theorem test_overstated_length :
    State.hostRun [0x00] 2 { State.reset with cfg := buildFX } = .refused .lengthOverstatesBuffer :=
  State.hostRun_overstated (by decide) test_fixture_builds.1 (by decide) (by decide)
/-- The end of P4: a pending invalid jump and its error record. -/
def endOfP4 : State :=
  { inRun buildFX [0x20, 0, 0x10, 0] [] with
    engState := .aborted, pc := 4, result := .fail, jmpValid := true, jmpTarget := 0x10,
    err := ⟨.invalidJump, 4, recIV 0x20 0x10⟩ }
/-- W7: run start leaves nothing of P4's jump and record. -/
theorem test_W7 :
    (endOfP4.startRun [0x00] 1).pc = 0 ∧ (endOfP4.startRun [0x00] 1).jmpValid = false ∧
    (endOfP4.startRun [0x00] 1).err = .clear ∧ (endOfP4.startRun [0x00] 1).mem = [(0, 0x00)] ∧
    (endOfP4.startRun [0x00] 1).totalLen = 1 := by decide
/-- A handler's write to the program (20_memory.md R61) shows in the next fetch. -/
theorem test_program_write :
    (nextOf (step (inRun buildFX [0x00, 0x00] [.returned ⟨.ok, ⟨[], false, none, [(1, 0x01)]⟩⟩]))).map
      (fun t => (t.pc, t.window)) = some (1, some [0x01]) := by decide
/-- PC and class after the step that runs a placed word. -/
def placed (nbits w : Nat) : Option (Nat × LenClass) :=
  (nextOf (step (State.reset.withFetchWord nbits w))).map fun t => (t.pc, t.cur.cls)
/-- The placed word of every row with bits runs as the next instruction, and one of no row is UNDEFINED. -/
theorem test_fetchWord_rows :
    placed 8 0x01 = some (1, .noOperand) ∧ placed 16 0x4110 = some (2, .narrow) ∧
    placed 32 0x12340526 = some (4, .single) ∧ placed 64 0x5ABEEF02ABCD0130 = some (8, .dual) ∧
    placed 48 0x123456780026 = some (6, .single) ∧
    placed 88 0x0506070802010203040130 = some (11, .dual) ∧ placed 128 0x03020132 = some (16, .dualExt) ∧
    (nextOf (step (State.reset.withFetchWord 0 0))).map (fun t => t.faultReason) =
      some (some .undefinedOpcode) := by decide

/-! ## Witnesses: states and operands that meet the hypotheses of each obligation -/

section Witnesses

/-! ### Encoding and resolution -/

theorem witness_DecodeInvertsEncode :
    configFlaw buildFX = none ∧ WellFormed buildFX (.classDualC3 0x30 1 0xABCD 2 0xBEEF 0x5A) = true ∧
    WellFormed buildFX (.undefinedOpcode [0x7F]) = true := by
  refine ⟨test_fixture_builds.1, ?_, ?_⟩ <;> decide

theorem witness_EncodeInvertsDecode :
    decode buildFX [0x10, 0x41, 0x77] = .ok (.classNarrowC1 0x10 0x41, [0x77]) := by rfl

/-- Two entries that TYPE1's high bit tells apart. -/
def buildFold : Config := { buildFX1 with table := [(0x26, ⟨0x26, 2⟩), (0x126, ⟨0x126, 2⟩)] }

theorem witness_TableWfGivesOneClass : tableWf buildFold = true := by
  rw [tableWf_eq_fast]
  decide

theorem witness_ExtBitsZeroResolvesByOpcodeByte :
    buildFX.extBits = 0 ∧ buildFX.varlen = true ∧
    tableLookup buildFX.table ((0x7F : Byte).setWidth 11) = none ∧
    tableLookup buildFX.table ((0x00 : Byte).setWidth 11) = some (0x00, .noOperand) ∧
    lenOf buildFX.mode .noOperand = some 1 := by decide

/-- Two DUAL entries that TYPE1's high bit tells apart, in a build that folds TYPE1 only. -/
def buildFoldDual : Config := { buildFX1 with table := [(0x30, ⟨0x30, 3⟩), (0x130, ⟨0x130, 3⟩)] }

/-- With both values of TYPE1's high bit: a SINGLE followed by an opcode byte of 0x80, where a longer class would have
TYPE2, at EXT_BITS = 1 and at 2; and a DUAL whose own TYPE2 has its high bit set, which EXT_BITS = 1 does not
fold. -/
theorem witness_HighTypeBitSelectsTheOtherEntry :
    (buildFold.varlen = true ∧ tableWf buildFold = true ∧ 1 ≤ buildFold.extBits.val ∧
      LenClass.single.hasType 1 = true ∧ lenOf buildFold.mode .single = some 4 ∧
      tableLookup buildFold.table ((0x26 : Byte).setWidth 11) = some (0x26, .single) ∧
      tableLookup buildFold.table ((0x26 : Byte).setWidth 11 ||| 0x100) = some (0x126, .single) ∧
      typeBit buildFold.mode [0x26, 0x7F, 0, 0, 0x80] 1 = false ∧
      typeBit buildFold.mode [0x26, 0x80, 0, 0, 0x80] 1 = true ∧
      typeBit buildFold.mode [0x26, 0x80, 0, 0, 0x80] 2 = true ∧
      LenClass.single.hasType 2 = false ∧ LenClass.single.hasType 3 = false) ∧
    tableWf { buildFold with extBits := 2 } = true ∧
    (buildFoldDual.varlen = true ∧ tableWf buildFoldDual = true ∧ buildFoldDual.extBits.val = 1 ∧
      LenClass.dual.hasType 1 = true ∧ lenOf buildFoldDual.mode .dual = some 8 ∧
      tableLookup buildFoldDual.table ((0x30 : Byte).setWidth 11) = some (0x30, .dual) ∧
      tableLookup buildFoldDual.table ((0x30 : Byte).setWidth 11 ||| 0x100) = some (0x130, .dual) ∧
      typeBit buildFoldDual.mode [0x30, 0x80, 0, 0, 0x80, 0, 0, 0] 1 = true ∧
      typeBit buildFoldDual.mode [0x30, 0x80, 0, 0, 0x80, 0, 0, 0] 2 = true) := by
  simp only [tableWf_eq_fast]
  decide

/-- FD4 and FD3 with an opcode byte of 0x80 behind, and the DUAL of TYPE2 0x80 (FD10's rule in COMPACT). -/
theorem test_unfolded_high_bits :
    resolve buildFold 0x26 [0x26, 0x00, 1, 0, 0x80] = .resolved ⟨0x26, .single, 4, 0x26⟩ ∧
    resolve { buildFold with extBits := 2 } 0x26 [0x26, 0x80, 1, 0, 0x80] = .resolved ⟨0x126, .single, 4, 0x126⟩ ∧
    resolve buildFoldDual 0x30 [0x30, 0x00, 0, 0, 0x80, 0, 0, 0] = .resolved ⟨0x30, .dual, 8, 0x30⟩ := by decide

/-- GT1: TYPE1 would be just past the end. -/
theorem witness_GatedTypeBitNeverExecutes :
    resolve buildFX1 0x26 [0x26] = .resolved ⟨0x26, .single, 4, 0x26⟩ ∧ LenClass.single.hasType 1 = true ∧
    typeOffset buildFX1.mode 1 = some 1 ∧ [(0x26 : Byte)].length ≤ 1 := by decide

theorem witness_LengthAndDispatchPhasesAgree :
    resolve buildFX1 0x26 [0x26, 0x80, 1, 0] = .resolved ⟨0x126, .single, 4, 0x126⟩ ∧
    decode buildFX1 [0x26, 0x80, 1, 0] = .ok (.classSingleC2 0x26 0x80 1, []) := by
  refine ⟨?_, rfl⟩
  decide

/-- With an entry and without one. -/
theorem witness_FixedLengthResolution :
    buildFL.varlen = false ∧ lenOf buildFL.mode .dual = some buildFL.fixedLen ∧
    tableLookup buildFL.table (foldIndex buildFL.extBits .dual 0x10 (typeBit buildFL.mode [0x10] 1)
      (typeBit buildFL.mode [0x10] 2) (typeBit buildFL.mode [0x10] 3)) = some (0x10, .narrow) ∧
    tableLookup buildFL.table (foldIndex buildFL.extBits .dual 0x7F (typeBit buildFL.mode [0x7F] 1)
      (typeBit buildFL.mode [0x7F] 2) (typeBit buildFL.mode [0x7F] 3)) = none := by decide

/-! ### Formats -/

def okDone : HandlerOutcome := ⟨.ok, .nothing⟩
def okOnce (cfg : Config) : State := inRun cfg [] [.returned okDone]

/-- For C0 and for X0. -/
theorem witness_NoneFormatsParseAndComplete :
    buildFX.varlen = true ∧ buildFX.mode = .compact ∧
    resolve buildFX 0x01 [0x01] = .resolved ⟨0x01, .noOperand, 1, 0x01⟩ ∧
    buildFXX.varlen = true ∧ buildFXX.mode = .extended ∧
    resolve buildFXX 0x01 [0x01] = .resolved ⟨0x01, .noOperand, 1, 0x01⟩ ∧
    (okOnce buildFX).handlerReply 0x01 ⟨0x01, 0, 0, 0, 0, 0, 0⟩ = .returned okDone ∧
    (okOnce buildFXX).handlerReply 0x01 ⟨0x01, 0, 0, 0, 0, 0, 0⟩ = .returned okDone := by decide

/-- For C1 and for X1. -/
theorem witness_NarrowFormatsParseAndComplete :
    buildFX.varlen = true ∧ resolve buildFX 0x10 [0x10, 0xFF] = .resolved ⟨0x10, .narrow, 2, 0x10⟩ ∧
    buildFXX.varlen = true ∧ resolve buildFXX 0x10 [0x10, 0xFF] = .resolved ⟨0x10, .narrow, 2, 0x10⟩ ∧
    (okOnce buildFX).handlerReply 0x10 ⟨0x10, 0xFF, 0, 0, 0, 0, 0⟩ = .returned okDone ∧
    (okOnce buildFXX).handlerReply 0x10 ⟨0x10, 0xFF, 0, 0, 0, 0, 0⟩ = .returned okDone := by decide

theorem witness_SingleC2ParsesAndCompletes :
    buildFX.varlen = true ∧ buildFX.mode = .compact ∧
    resolve buildFX 0x26 [0x26, 0x80, 0xFF, 0xFF] = .resolved ⟨0x26, .single, 4, 0x26⟩ ∧
    (okOnce buildFX).handlerReply 0x26
      ⟨0x26, 0x80, BitVec.ofNat 32 ((0xFF : Byte).toNat + 256 * (0xFF : Byte).toNat), 0, 0, 0, 0⟩ =
        .returned okDone := by decide

theorem witness_DualC3ParsesAndCompletes :
    buildFX.varlen = true ∧ buildFX.mode = .compact ∧
    resolve buildFX 0x30 [0x30, 1, 0xCD, 0xAB, 2, 0xEF, 0xBE, 0x5A] = .resolved ⟨0x30, .dual, 8, 0x30⟩ ∧
    (okOnce buildFX).handlerReply 0x30
      ⟨0x30, 1, BitVec.ofNat 32 ((0xCD : Byte).toNat + 256 * (0xAB : Byte).toNat), 2,
        BitVec.ofNat 32 ((0xEF : Byte).toNat + 256 * (0xBE : Byte).toNat), 0, 0⟩ = .returned okDone := by decide

theorem witness_SingleX2ParsesAndCompletes :
    buildFXX.varlen = true ∧ buildFXX.mode = .extended ∧
    resolve buildFXX 0x26 [0x26, 0, 0x78, 0x56, 0x34, 0x12] = .resolved ⟨0x26, .single, 6, 0x26⟩ ∧
    (okOnce buildFXX).handlerReply 0x26
      ⟨0x26, 0, BitVec.ofNat 32 ((0x78 : Byte).toNat + 256 * (0x56 : Byte).toNat + 65536 * (0x34 : Byte).toNat +
        16777216 * (0x12 : Byte).toNat), 0, 0, 0, 0⟩ = .returned okDone := by decide

theorem witness_DualX3ParsesAndCompletes :
    buildFXX.varlen = true ∧ buildFXX.mode = .extended ∧
    resolve buildFXX 0x30 [0x30, 1, 4, 3, 2, 1, 2, 8, 7, 6, 5] = .resolved ⟨0x30, .dual, 11, 0x30⟩ ∧
    (okOnce buildFXX).handlerReply 0x30
      ⟨0x30, 1, BitVec.ofNat 32 ((4 : Byte).toNat + 256 * (3 : Byte).toNat + 65536 * (2 : Byte).toNat +
        16777216 * (1 : Byte).toNat), 2, BitVec.ofNat 32 ((8 : Byte).toNat + 256 * (7 : Byte).toNat +
        65536 * (6 : Byte).toNat + 16777216 * (5 : Byte).toNat), 0, 0⟩ = .returned okDone := by decide

theorem witness_DualExtX4ParsesAndCompletes :
    buildFXX.varlen = true ∧ buildFXX.mode = .extended ∧
    resolve buildFXX 0x32 [0x32, 1, 0x11, 0, 0, 0, 2, 0x22, 0, 0, 0, 3, 0x33, 0, 0, 0] =
      .resolved ⟨0x32, .dualExt, 16, 0x32⟩ ∧
    (okOnce buildFXX).handlerReply 0x32
      ⟨0x32, 1, BitVec.ofNat 32 ((0x11 : Byte).toNat + 256 * (0 : Byte).toNat + 65536 * (0 : Byte).toNat +
        16777216 * (0 : Byte).toNat), 2, BitVec.ofNat 32 ((0x22 : Byte).toNat + 256 * (0 : Byte).toNat +
        65536 * (0 : Byte).toNat + 16777216 * (0 : Byte).toNat), 3, BitVec.ofNat 32 ((0x33 : Byte).toNat +
        256 * (0 : Byte).toNat + 65536 * (0 : Byte).toNat + 16777216 * (0 : Byte).toNat)⟩ =
          .returned okDone := by decide

/-- FD8: an EXTENDED build with EXT_BITS = 3 and its entry at 0x732; and a COMPACT build that resolves. -/
theorem witness_DualExtX4_bit10 :
    resolve { buildFXX with extBits := 3, table := [(0x732, ⟨0x32, 4⟩)] } 0x32
      [0x32, 0x81, 0, 0, 0, 0, 0x82, 0, 0, 0, 0, 0x83, 0, 0, 0, 0] = .resolved ⟨0x732, .dualExt, 16, 0x32⟩ ∧
    buildFX.mode = .compact ∧ resolve buildFX 0x30 [0x30] = .resolved ⟨0x30, .dual, 8, 0x30⟩ := by decide

/-- The last length that fits, with a reply for the record of every layout. -/
theorem witness_FixedLengthParsesAndCompletes :
    buildFL.varlen = false ∧ resolve buildFL 0x10 [0x10, 0x41, 0, 0, 0, 0, 0, 0] = .resolved ⟨0x10, .dual, 8, 0x10⟩ ∧
    8 ≤ [(0x41 : Byte), 0, 0, 0, 0, 0, 0].length + 1 ∧
    ∀ r, (okOnce buildFL).handlerReply 0x10 r = .returned okDone := by
  refine ⟨by decide, by decide, by decide, fun _ => rfl⟩

/-! ### Handler calls: `Dispatches` is met by every format instruction -/

/-- A handler that asked for everything: two jumps, a stop, hook 9, and a write to the program. -/
def busy (resp : Resp) (jumps : List JumpTarget) : HandlerOutcome :=
  ⟨resp, ⟨jumps, true, some (some 9), [(0, 0xEE)]⟩⟩

/-- The state with program `20 00 05 00 00 00 00 00` in which the handler's reply is `o`. -/
def oneCall (cfg : Config) (o : HandlerOutcome) : State :=
  inRun cfg [0x20, 0, 5, 0, 0, 0, 0, 0] [.returned o]

theorem dispatches_classSingleC2 (o : HandlerOutcome) :
    Dispatches (.classSingleC2 0x20 0 5) (oneCall buildFX o) ⟨0x20, .single, 4, 0x20⟩ (recIV 0x20 5) o :=
  ⟨by show Instr.cur buildFX _ = _; decide, ⟨_, _, rfl, rfl⟩, rfl⟩
theorem dispatches_classNoneC0 (o : HandlerOutcome) :
    Dispatches (.classNoneC0 0x01) (oneCall buildFX o) ⟨0x01, .noOperand, 1, 0x01⟩ (recIV 0x01 0) o :=
  ⟨by show Instr.cur buildFX _ = _; decide, ⟨_, _, rfl, rfl⟩, rfl⟩
theorem dispatches_classNarrowC1 (o : HandlerOutcome) :
    Dispatches (.classNarrowC1 0x10 7) (oneCall buildFX o) ⟨0x10, .narrow, 2, 0x10⟩ ⟨0x10, 7, 0, 0, 0, 0, 0⟩ o :=
  ⟨by show Instr.cur buildFX _ = _; decide, ⟨_, _, rfl, rfl⟩, rfl⟩
theorem dispatches_classDualC3 (o : HandlerOutcome) :
    Dispatches (.classDualC3 0x30 1 2 3 4 5) (oneCall buildFX o) ⟨0x30, .dual, 8, 0x30⟩ ⟨0x30, 1, 2, 3, 4, 0, 0⟩ o :=
  ⟨by show Instr.cur buildFX _ = _; decide, ⟨_, _, rfl, rfl⟩, rfl⟩
theorem dispatches_classNoneX0 (o : HandlerOutcome) :
    Dispatches (.classNoneX0 0x01) (oneCall buildFXX o) ⟨0x01, .noOperand, 1, 0x01⟩ (recIV 0x01 0) o :=
  ⟨by show Instr.cur buildFXX _ = _; decide, ⟨_, _, rfl, rfl⟩, rfl⟩
theorem dispatches_classNarrowX1 (o : HandlerOutcome) :
    Dispatches (.classNarrowX1 0x10 7) (oneCall buildFXX o) ⟨0x10, .narrow, 2, 0x10⟩ ⟨0x10, 7, 0, 0, 0, 0, 0⟩ o :=
  ⟨by show Instr.cur buildFXX _ = _; decide, ⟨_, _, rfl, rfl⟩, rfl⟩
theorem dispatches_classSingleX2 (o : HandlerOutcome) :
    Dispatches (.classSingleX2 0x20 0 5) (oneCall buildFXX o) ⟨0x20, .single, 6, 0x20⟩ (recIV 0x20 5) o :=
  ⟨by show Instr.cur buildFXX _ = _; decide, ⟨_, _, rfl, rfl⟩, rfl⟩
theorem dispatches_classDualX3 (o : HandlerOutcome) :
    Dispatches (.classDualX3 0x30 1 2 3 4) (oneCall buildFXX o) ⟨0x30, .dual, 11, 0x30⟩ ⟨0x30, 1, 2, 3, 4, 0, 0⟩ o :=
  ⟨by show Instr.cur buildFXX _ = _; decide, ⟨_, _, rfl, rfl⟩, rfl⟩
theorem dispatches_classDualExtX4 (o : HandlerOutcome) :
    Dispatches (.classDualExtX4 0x32 1 2 3 4 5 6) (oneCall buildFXX o) ⟨0x32, .dualExt, 16, 0x32⟩
      ⟨0x32, 1, 2, 3, 4, 5, 6⟩ o :=
  ⟨by show Instr.cur buildFXX _ = _; decide, ⟨_, _, rfl, rfl⟩, rfl⟩
theorem dispatches_fixedLength (o : HandlerOutcome) :
    Dispatches (.fixedLength 0x20 (.dual16 0 5 0 0 0)) (oneCall buildFL o) ⟨0x20, .dual, 8, 0x20⟩ (recIV 0x20 5) o :=
  ⟨by show Instr.cur buildFL _ = _; decide, ⟨_, _, rfl, rfl⟩, rfl⟩

/-- For one instruction of each kind of class. -/
theorem witness_RecordFieldsOutsideTheClassAreZero :
    (∃ c, Dispatches (.classNoneC0 0x01) (oneCall buildFX okDone) c (recIV 0x01 0) okDone ∧
      c.cls = .noOperand ∧ buildFX.mode = .compact) ∧
    (∃ c r, Dispatches (.classNarrowC1 0x10 7) (oneCall buildFX okDone) c r okDone ∧ c.cls = .narrow) ∧
    (∃ c r, Dispatches (.classSingleC2 0x20 0 5) (oneCall buildFX okDone) c r okDone ∧ c.cls = .single) ∧
    (∃ c r, Dispatches (.classDualX3 0x30 1 2 3 4) (oneCall buildFXX okDone) c r okDone ∧ c.cls ≠ .dualExt) :=
  ⟨⟨_, dispatches_classNoneC0 _, rfl, rfl⟩, ⟨_, _, dispatches_classNarrowC1 _, rfl⟩,
   ⟨_, _, dispatches_classSingleC2 _, rfl⟩, ⟨_, _, dispatches_classDualX3 _, by decide⟩⟩

/-- Also in its last clause: the instruction of eight bytes ends the program and the run is in progress. -/
theorem witness_OkAdvancesPc :
    ∃ c r, Dispatches (.classDualC3 0x30 1 2 3 4 5) (oneCall buildFX (busy .ok [])) c r (busy .ok []) ∧
      jumpPending (oneCall buildFX (busy .ok [])) (busy .ok []) = false ∧
      (oneCall buildFX (busy .ok [])).pc + c.len = (oneCall buildFX (busy .ok [])).totalLen ∧
      (oneCall buildFX (busy .ok [])).engState = .running :=
  ⟨_, _, dispatches_classDualC3 _, by decide⟩

/-- With no jump pending, and with one to the highest valid target. -/
theorem witness_EndHaltsTheRun :
    (∃ c r, Dispatches (.classNoneC0 0x01) (oneCall buildFX (busy .endRun [])) c r (busy .endRun []) ∧
      jumpPending (oneCall buildFX (busy .endRun [])) (busy .endRun []) = false) ∧
    (∃ c r, Dispatches (.classNoneC0 0x01) (oneCall buildFX (busy .endRun [7])) c r (busy .endRun [7]) ∧
      jumpPending (oneCall buildFX (busy .endRun [7])) (busy .endRun [7]) = true ∧
      (pendingTarget (oneCall buildFX (busy .endRun [7])) (busy .endRun [7])).toNat < 8) ∧
    ∀ o, (oneCall buildFX o).pc < (oneCall buildFX o).totalLen ∧ (oneCall buildFX o).totalLen = 8 ∧
      (oneCall buildFX o).totalLen ≤ 2 ^ (oneCall buildFX o).cfg.pcW - 1 :=
  ⟨⟨_, _, dispatches_classNoneC0 _, by decide⟩, ⟨_, _, dispatches_classNoneC0 _, by decide⟩,
   fun _ => ⟨by show 0 < 8; decide, rfl, by show 8 ≤ 2 ^ 16 - 1; decide⟩⟩

/-- With no jump pending, and with one to the highest valid target. -/
theorem witness_ResetSetsPcToZero :
    (∃ c r, Dispatches (.classNoneC0 0x01) (oneCall buildFX (busy .reset [])) c r (busy .reset []) ∧
      jumpPending (oneCall buildFX (busy .reset [])) (busy .reset []) = false) ∧
    (∃ c r, Dispatches (.classNoneC0 0x01) (oneCall buildFX (busy .reset [7])) c r (busy .reset [7]) ∧
      jumpPending (oneCall buildFX (busy .reset [7])) (busy .reset [7]) = true ∧
      (pendingTarget (oneCall buildFX (busy .reset [7])) (busy .reset [7])).toNat < 8) ∧
    ∀ o, (oneCall buildFX o).pc < (oneCall buildFX o).totalLen ∧ (oneCall buildFX o).totalLen = 8 ∧
      (oneCall buildFX o).totalLen ≤ 2 ^ (oneCall buildFX o).cfg.pcW - 1 :=
  ⟨⟨_, _, dispatches_classNoneC0 _, by decide⟩, ⟨_, _, dispatches_classNoneC0 _, by decide⟩,
   fun _ => ⟨by show 0 < 8; decide, rfl, by show 8 ≤ 2 ^ 16 - 1; decide⟩⟩

/-- The highest valid target, TOTAL_LEN - 1, the second of two jumps. -/
theorem witness_ValidJumpBeatsTheSignal :
    ∃ c r, Dispatches (.classSingleC2 0x20 0 5) (oneCall buildFX (busy .endRun [0xFFFF, 7])) c r
        (busy .endRun [0xFFFF, 7]) ∧
      jumpPending (oneCall buildFX (busy .endRun [0xFFFF, 7])) (busy .endRun [0xFFFF, 7]) = true ∧
      (pendingTarget (oneCall buildFX (busy .endRun [0xFFFF, 7])) (busy .endRun [0xFFFF, 7])).toNat + 1 =
        (oneCall buildFX (busy .endRun [0xFFFF, 7])).totalLen ∧
      (oneCall buildFX (busy .endRun [0xFFFF, 7])).totalLen ≤ 2 ^ buildFX.pcW - 1 :=
  ⟨_, _, dispatches_classSingleC2 _, by decide⟩

/-- The lowest invalid target, TOTAL_LEN. -/
theorem witness_InvalidJumpAborts :
    ∃ c r, Dispatches (.classSingleC2 0x20 0 5) (oneCall buildFX (busy .endRun [8])) c r (busy .endRun [8]) ∧
      jumpPending (oneCall buildFX (busy .endRun [8])) (busy .endRun [8]) = true ∧
      (oneCall buildFX (busy .endRun [8])).pc < (oneCall buildFX (busy .endRun [8])).totalLen ∧
      (oneCall buildFX (busy .endRun [8])).totalLen =
        (pendingTarget (oneCall buildFX (busy .endRun [8])) (busy .endRun [8])).toNat :=
  ⟨_, _, dispatches_classSingleC2 _, by decide⟩

theorem witness_HandlerErrorAborts :
    ∃ c r, Dispatches (.classSingleC2 0x20 0 5) (oneCall buildFX (busy .error [8])) c r (busy .error [8]) ∧
      (busy .error [8]).resp = .error :=
  ⟨_, _, dispatches_classSingleC2 _, rfl⟩

/-- PC at TOTAL_LEN. -/
theorem witness_BoundsAnomalyAborts :
    Dispatches (.classNoneC0 0x01) { oneCall buildFX okDone with pc := 8 } ⟨0x01, .noOperand, 1, 0x01⟩
        (recIV 0x01 0) okDone ∧
      okDone.resp ≠ .error ∧ (oneCall buildFX okDone).totalLen ≤ 8 :=
  ⟨⟨rfl, ⟨_, _, rfl, rfl⟩, rfl⟩, by decide⟩

theorem witness_BrokenHandlerContractsStop :
    (Instr.classNoneC0 0x01).cur buildFX = some ⟨0x01, .noOperand, 1, 0x01⟩ ∧
    (Instr.classNoneC0 0x01).format = some (0x01, .noOperand) ∧
    (inRun buildFX [0x01] [.calledRun]).handlerReply 0x01 (fillRecord 0x01 .noOperand) = .calledRun ∧
    (inRun buildFX [0x01] [.neverReturns]).handlerReply 0x01 (fillRecord 0x01 .noOperand) = .neverReturns := by
  decide

/-! ### The cycle -/

/-- With no hook. -/
theorem reachesStepC_noHook {cfg : Config} {prog : List Byte} {replies : List HandlerReply}
    (h : 0 < prog.length) : ReachesStepC (inRun cfg prog replies) (inRun cfg prog replies) :=
  ⟨rfl, h, rfl, rfl⟩

/-- With no hook, and with a hook that asks for a jump. -/
theorem witness_StepRunsTheDecodedInstruction :
    (∃ s, ReachesStepC s s ∧ s.window = some [0x10, 0x41] ∧
      decode s.cfg [0x10, 0x41] = .ok (.classNarrowC1 0x10 0x41, [])) ∧
    ∃ s u, ReachesStepC s u ∧ s.wdtHook = some 7 ∧ u.jmpValid = true ∧ u.window = some [0x10, 0x41] ∧
      decode u.cfg [0x10, 0x41] = .ok (.classNarrowC1 0x10 0x41, []) :=
  ⟨⟨inRun buildFX [0x10, 0x41] [], reachesStepC_noHook (by decide), rfl, rfl⟩,
   ⟨withHook (inRun buildFX [0x10, 0x41] []) (hooked true [1] false), _, ⟨rfl, by decide, rfl, rfl⟩, rfl, rfl, rfl,
    rfl⟩⟩

/-- A program longer than the longest instruction, read from PC 3: 16 bytes; and one that ends sooner. -/
theorem witness_FetchReadsOnlyTheProgram :
    (∃ bytes, State.window { inRun buildFX (List.replicate 20 0x00) [] with pc := 3 } = some bytes ∧
      bytes.length = 16) ∧
    State.window { inRun buildFX [0x00, 0x01] [] with pc := 1 } = some [0x01] ∧
    (inRun buildFX (List.replicate 20 0x00) []).mem.covers 20 = true := by
  refine ⟨⟨_, rfl, rfl⟩, ?_, ?_⟩ <;> decide

theorem witness_LoopTestHaltsAtTheEnd :
    ∃ s : State, s.engState = .running ∧ s.totalLen = s.pc := ⟨inRun buildFX [] [], rfl, rfl⟩

/-- A failing hook that asked for a jump and a stop, installed hook 9 and wrote the program. -/
def failing : HookReply := .returned ⟨false, ⟨[3], true, some (some 9), [(0, 0xEE)]⟩⟩

/-- For both policies. -/
theorem witness_WatchdogFailureAborts :
    ∃ s s' : State, s.engState = .running ∧ s.pc < s.totalLen ∧ s.wdtHook = some 7 ∧ s.hookReply 7 = failing ∧
      s.cfg.wdtPolicy = .preserve ∧ s'.engState = .running ∧ s'.pc < s'.totalLen ∧ s'.wdtHook = some 7 ∧
      s'.hookReply 7 = failing ∧ s'.cfg.wdtPolicy = .normalize :=
  ⟨withHook (inRun buildFX [0x00] []) failing,
   withHook (inRun { buildFX with wdtPolicy := .normalize } [0x00] []) failing, by decide⟩

/-- What it asked for is applied before the abort (42_sequencer.md R162), and no handler is called. -/
theorem test_watchdog_requests :
    (nextOf (step (withHook (inRun buildFX [0x00] []) failing))).map
      (fun t => (t.engState, t.wdtHook, t.termReq, t.handlerCalls)) = some (.aborted, some 9, true, 0) ∧
    (nextOf (step (withHook (inRun buildFX [0x00] []) failing))).map
      (fun t => (t.jmpValid, t.jmpTarget, t.mem.read 0)) = some (true, 3, some 0xEE) := by decide

theorem witness_BrokenHookContractsStop :
    ∃ s s' : State, s.engState = .running ∧ s.pc < s.totalLen ∧ s.wdtHook = some 7 ∧ s.hookReply 7 = .calledRun ∧
      s'.engState = .running ∧ s'.pc < s'.totalLen ∧ s'.wdtHook = some 7 ∧ s'.hookReply 7 = .neverReturns :=
  ⟨withHook (inRun buildFX [0x00] []) .calledRun, withHook (inRun buildFX [0x00] []) .neverReturns, by decide⟩

/-- A stop of this cycle's hook, and one requested before. -/
theorem witness_StopHaltsAtStepB :
    (∃ s u : State, s.engState = .running ∧ s.pc < s.totalLen ∧ s.termReq = false ∧ s.atStepB = some u ∧
      u.termReq = true) ∧
    ∃ s : State, s.engState = .running ∧ s.pc < s.totalLen ∧ s.atStepB = some s ∧ s.termReq = true :=
  ⟨⟨withHook (inRun buildFX [0x00] []) (hooked true [] true), _, rfl, by decide, rfl, rfl, rfl⟩,
   ⟨{ inRun buildFX [0x00] [] with termReq := true }, rfl, by decide, rfl, rfl⟩⟩

/-- An instruction that ends at TOTAL_LEN, one that ends one byte later, and (FD5) bytes that no class claims. -/
theorem witness_LengthAbortExactlyWhenPastEnd :
    (∃ u c, ReachesStepC u u ∧ u.window = some [0x26, 0, 0x34, 0x12] ∧
      resolve u.cfg 0x26 [0x26, 0, 0x34, 0x12] = .resolved c ∧ u.pc + c.len = u.totalLen) ∧
    (∃ u c, ReachesStepC u u ∧ u.window = some [0x26, 0, 0x34] ∧
      resolve u.cfg 0x26 [0x26, 0, 0x34] = .resolved c ∧ u.pc + c.len = u.totalLen + 1) ∧
    ∃ u, ReachesStepC u u ∧ u.window = some [0x20, 0x80] ∧ resolve u.cfg 0x20 [0x20, 0x80] = .undefined :=
  ⟨⟨inRun buildFX [0x26, 0, 0x34, 0x12] [], ⟨0x26, .single, 4, 0x26⟩, reachesStepC_noHook (by decide), by decide⟩,
   ⟨inRun buildFX [0x26, 0, 0x34] [], ⟨0x26, .single, 4, 0x26⟩, reachesStepC_noHook (by decide), by decide⟩,
   ⟨inRun buildFX1 [0x20, 0x80] [], reachesStepC_noHook (by decide), by decide⟩⟩

theorem witness_UndefinedOpcodeFaults :
    ∃ u, ReachesStepC u u ∧ u.window = some [0x7F] ∧ resolve u.cfg 0x7F [0x7F] = .undefined :=
  ⟨inRun buildFX [0x7F] [], reachesStepC_noHook (by decide), by decide⟩

theorem witness_FaultedHasNoWayOut :
    ∃ s, (State.enterFault .undefinedOpcode s).engState = .faulted := ⟨State.reset, rfl⟩

/-! ### The host's interfaces -/

/-- A state between runs, of a build that the model takes, with these requests pending. -/
def waiting (e : EngState) (reqs : List HostRequest) : State :=
  { State.reset with cfg := buildFX, engState := e, hostReqs := reqs }

/-- From READY, HALTED and ABORTED, at the largest length that PC_W bits hold, and for the empty program. -/
theorem witness_RunStartWrites :
    ((waiting .ready [.run [0x00] 1]).betweenRuns = true ∧ (waiting .halted [.run [0x00] 1]).betweenRuns = true ∧
      (waiting .aborted [.run [0x00] 1]).betweenRuns = true) ∧
    configFlaw (waiting .ready []).cfg = none ∧ 0 ≤ 2 ^ buildFX.pcW - 1 ∧ 65535 ≤ 2 ^ buildFX.pcW - 1 ∧
    65535 ≤ (List.replicate 65535 (0 : Byte)).length := by
  refine ⟨by decide, test_fixture_builds.1, by decide, by decide, ?_⟩
  rw [List.length_replicate]

/-- Each refusal, the two lengths at their bounds. -/
theorem witness_RunRefusals :
    (inRun buildFX [] []).engState = .running ∧ (waiting .ready []).engState ≠ .running ∧
    (({ buildFX with extBits := 3 } : Config).mode = .compact ∧ ({ buildFX with extBits := 3 } : Config).extBits = 3) ∧
    (¬ (({ buildFL with fixedLen := 3 } : Config).mode = .compact ∧
        ({ buildFL with fixedLen := 3 } : Config).extBits = 3) ∧
      ({ buildFL with fixedLen := 3 } : Config).varlen = false ∧ ∀ c, lenOf .compact c ≠ some 3) ∧
    (¬ (buildFX.mode = .compact ∧ buildFX.extBits = 3) ∧ buildFX.varlen = true ∧
      tableWf { buildFX with table := [(0x40, ⟨0xA, 4⟩)] } = false) ∧
    (¬ (buildFL.mode = .compact ∧ buildFL.extBits = 3) ∧ buildFL.varlen = false ∧
      lenOf buildFL.mode .dual = some buildFL.fixedLen ∧
      tableWf { buildFL with table := [(0x40, ⟨0xA, 4⟩)] } = false) ∧
    (configFlaw buildFX = none ∧ 2 ^ buildFX.pcW - 1 < 65536 ∧ [(0x00 : Byte)].length < 2 ∧
      2 ≤ 2 ^ buildFX.pcW - 1) := by
  refine ⟨by decide, by decide, by decide, ⟨by decide, by decide, ?_⟩, ⟨by decide, by decide, ?_⟩,
    ⟨by decide, by decide, by decide, ?_⟩, ⟨test_fixture_builds.1, by decide⟩⟩
  · intro c
    cases c <;> decide
  · rw [tableWf_eq_fast]
    decide
  · rw [tableWf_eq_fast]
    decide

theorem witness_HostControlRequests :
    (waiting .ready [.setWatchdog (some 7)]).betweenRuns = true ∧ (waiting .halted [.requestStop]).betweenRuns = true ∧
    (waiting .aborted [.requestJump 5]).betweenRuns = true ∧ (waiting .ready []).betweenRuns = true ∧
    (waiting .ready [.setWatchdog (some 7)]).hostReqs = [.setWatchdog (some 7)] := by decide

theorem witness_RequestsOutsideARunAreDropped : (waiting .halted []).betweenRuns = true := by decide

/-- Before the first run, after a success and after a failure. -/
theorem witness_LastErrorReadsTheRecord :
    ∃ s t u : State, s.hostReqs = [.lastError] ∧ s.engState = .ready ∧ t.hostReqs = [.lastError] ∧
      t.engState = .halted ∧ u.hostReqs = [.lastError] ∧ u.engState = .aborted :=
  ⟨waiting .ready [.lastError], waiting .halted [.lastError], waiting .aborted [.lastError], by decide⟩

/-- A state of each kind. -/
theorem witness_HostReadsStateResultAndRecord :
    State.reset.engState = .ready ∧ (inRun buildFX [] []).engState = .running ∧
    (waiting .halted []).engState = .halted ∧ (waiting .aborted []).engState = .aborted ∧
    (State.enterFault .undefinedOpcode State.reset).engState = .faulted := by decide

/-- After P4 the host reads its record (10_state.md R44); before the first run the record is the free value
(R40). -/
theorem test_visible_record :
    endOfP4.visibleErrKind = 4 ∧ endOfP4.visibleErrAddr = 4 ∧ endOfP4.visibleErrSnap = recIV 0x20 0x10 ∧
    endOfP4.visibleResult = 1 ∧ State.reset.visibleErrAddr = Config.freeErrAddr 0 := by
  refine ⟨by decide, by decide, by decide, by decide, rfl⟩

/-! ### Invariants and whole-machine rules -/

theorem recordShape_zero (cfg : Config) : RecordShape cfg .zero := by
  refine ⟨?_, fun _ => by decide⟩
  show 0 < 256 * 2 ^ cfg.extBits.val
  exact Nat.mul_pos (by decide) (Nat.two_pow_pos _)

/-- A run in progress in a build that the model takes meets the invariant at its start. -/
theorem inRun_meets_Inv {cfg : Config} {prog : List Byte} (replies : List HandlerReply)
    (h : configFlaw cfg = none) (hl : prog.length ≤ 2 ^ cfg.pcW - 1) : Inv (inRun cfg prog replies) where
  memWf := Memory.ofBytes_wf prog
  buffer := Memory.ofBytes_covers (Nat.le_refl _)
  lengthFits := hl
  pcInProgram := Nat.zero_le _
  errAddr := Nat.zero_le _
  recordShape := recordShape_zero _
  snapShape := recordShape_zero _
  curIndex := (recordShape_zero cfg).index
  curLen := ⟨Nat.le_refl 1, by show 1 ≤ 16; decide⟩
  faultRecorded := by simp [inRun, State.reset]
  faultPc := by simp [inRun]
  running := fun _ => ⟨h, rfl, rfl⟩
  halted := by simp [inRun]
  aborted := by simp [inRun]

theorem withHook_meets_Inv {s : State} (r : HookReply) (h : Inv s) : Inv (withHook s r) :=
  ⟨h.memWf, h.buffer, h.lengthFits, h.pcInProgram, h.errAddr, h.recordShape, h.snapShape, h.curIndex, h.curLen,
   h.faultRecorded, h.faultPc, h.running, h.halted, h.aborted⟩

/-- The three ways: BD7, WD3, A7; and a cycle that does not halt, A4. -/
theorem witness_ThreeWaysToHalt :
    (∃ s t, Inv s ∧ s.engState = .running ∧ step s = .next t ∧ s.totalLen = s.pc) ∧
    (∃ s t u, Inv s ∧ s.engState = .running ∧ step s = .next t ∧ s.pc < s.totalLen ∧ s.atStepB = some u ∧
      u.termReq = true) ∧
    (∃ s t, Inv s ∧ s.engState = .running ∧ step s = .next t ∧ t.engState = .halted ∧ t.handlerCalls = 1) ∧
    ∃ s t, Inv s ∧ s.engState = .running ∧ step s = .next t ∧ t.engState ≠ .halted :=
  ⟨⟨_, _, inRun_meets_Inv [] test_fixture_builds.1 (prog := []) (by decide), rfl, rfl, rfl⟩,
   ⟨_, _, _, withHook_meets_Inv (hooked true [] true)
      (inRun_meets_Inv [] test_fixture_builds.1 (prog := [0x00]) (by decide)), rfl, rfl, by decide, rfl, rfl⟩,
   ⟨_, _, inRun_meets_Inv [handled .endRun []] test_fixture_builds.1 (prog := [0x01]) (by decide), rfl, rfl, rfl,
    rfl⟩,
   ⟨_, _, inRun_meets_Inv [handled .ok []] test_fixture_builds.1 (prog := [0x00]) (by decide), rfl, rfl,
    by decide⟩⟩

/-- A step that goes on, one that halts, one that aborts and one that faults, each from a state that meets the
invariant. -/
theorem witness_StepKeepsTheInvariant :
    (∃ s t, Inv s ∧ step s = .next t ∧ t.engState = .running) ∧
    (∃ s t, Inv s ∧ step s = .next t ∧ t.engState = .halted) ∧
    (∃ s t, Inv s ∧ step s = .next t ∧ t.engState = .aborted) ∧
    ∃ s t, Inv s ∧ step s = .next t ∧ t.engState = .faulted :=
  ⟨⟨_, _, inRun_meets_Inv [handled .ok []] test_fixture_builds.1 (prog := [0x00]) (by decide), rfl, rfl⟩,
   ⟨_, _, inRun_meets_Inv [handled .endRun []] test_fixture_builds.1 (prog := [0x01]) (by decide), rfl, rfl⟩,
   ⟨_, _, inRun_meets_Inv [handled .error []] test_fixture_builds.1 (prog := [0x03]) (by decide), rfl, rfl⟩,
   ⟨_, _, inRun_meets_Inv [] test_fixture_builds.1 (prog := [0x7F]) (by decide), rfl, rfl⟩⟩

/-- `NoRunReachesBoundsAnomaly` and `TotalLenFixedDuringARun` (a step that aborts), `NoJumpOutlivesItsCycle` (a
taken jump). -/
theorem witness_runningStep :
    (∃ s t, Inv s ∧ s.engState = .running ∧ step s = .next t ∧ t.err.kind = .handler) ∧
    ∃ s t, Inv s ∧ s.engState = .running ∧ step s = .next t ∧ t.engState = .running ∧ t.pc = 0 ∧
      t.jmpTarget = 0 ∧ t.handlerCalls = 1 :=
  ⟨⟨_, _, inRun_meets_Inv [handled .error []] test_fixture_builds.1 (prog := [0x03]) (by decide), rfl, rfl, rfl⟩,
   ⟨_, _, inRun_meets_Inv [handled .ok [0]] test_fixture_builds.1 (prog := [0x20, 0, 0, 0]) (by decide), rfl, rfl,
    rfl, rfl, rfl, rfl⟩⟩

/-- `StepKeepsTheConfiguration` and `EngStateTransitionsAreLegal`. -/
theorem witness_step :
    (∃ s t, s.engState = .running ∧ step s = .next t ∧ t.engState = .halted) ∧
    (∃ s t, s.engState = .running ∧ step s = .next t ∧ t.engState = .faulted) ∧
    ∃ t, step (waiting .ready [.lastError]) = .next t ∧ t.engState = .faulted :=
  ⟨⟨inRun buildFX [] [], _, rfl, rfl, rfl⟩, ⟨inRun buildFX [0x7F] [], _, rfl, rfl, rfl⟩, ⟨_, rfl, rfl⟩⟩

/-- The hook register is changed by the host between runs, by a hook, and by the handler of the decoded
instruction. -/
theorem witness_OnlySetWatchdogWritesTheHook :
    (∃ s t, s.betweenRuns = true ∧ step s = .next t ∧ t.wdtHook ≠ s.wdtHook) ∧
    (∃ s t, s.engState = .running ∧ s.wdtHook = some 7 ∧ step s = .next t ∧ t.wdtHook = none) ∧
    ∃ s t, s.engState = .running ∧ s.wdtHook = none ∧ step s = .next t ∧ t.wdtHook = some 9 :=
  ⟨⟨waiting .ready [.setWatchdog (some 7)], _, rfl, rfl, by decide⟩,
   ⟨withHook (inRun buildFX [0x00] [handled .ok []]) (.returned ⟨true, ⟨[], false, some none, []⟩⟩), _, rfl, rfl, rfl,
    rfl⟩,
   ⟨oneCall buildFX (busy .ok []), _, rfl, rfl, rfl, rfl⟩⟩

/-- An abort writes the record, and run start clears it. -/
theorem witness_OnlyRunStartAndAbortsWriteTheErrorRecord :
    (∃ s t, s.engState = .running ∧ step s = .next t ∧ t.err ≠ s.err) ∧
    ∃ s t, s.engState = .aborted ∧ step s = .next t ∧ t.err ≠ s.err := by
  refine ⟨⟨inRun buildFX [0x03] [handled .error []], _, rfl, rfl, by decide⟩,
    { endOfP4 with hostReqs := [.run [0x00] 1] }, endOfP4.startRun [0x00] 1, rfl, ?_, by decide⟩
  rw [(step_of_betweenRuns (by decide)).1]
  have h : State.hostRun [0x00] 1 endOfP4 = .next (endOfP4.startRun [0x00] 1) :=
    State.hostRun_next (by decide) test_fixture_builds.1 (by decide) (by decide)
  simpa only [State.idle, State.serve, endOfP4, inRun, State.reset] using h

/-- The next state, where there is one. -/
def after (s : State) : State := (nextOf (step s)).getD s

theorem runPath_after {s t : State} {calls redirects : Nat} {b : Bool} (h : RunPath s t calls redirects)
    (hr : t.engState = .running) (hs : step t = .next (after t))
    (hc : (after t).handlerCalls = t.handlerCalls + 1) (hb : redirected t (after t) = b) :
    RunPath s (after t) (calls + 1) (redirects + if b then 1 else 0) := by
  have := h.cycle hr hs
  rwa [hc, hb, Nat.add_sub_cancel_left] at this

/-- The program NOP, RST. -/
def resetsOnce : State := inRun buildFX [0x00, 0x02] [handled .ok [], handled .reset [], handled .endRun []]

/-- A run that resets once and then ends: three handler calls, one redirection, TOTAL_LEN 2. -/
theorem witness_HandlerCallsAreBounded :
    Inv resetsOnce ∧ resetsOnce.engState = .running ∧ resetsOnce.pc = 0 ∧ resetsOnce.totalLen = 2 ∧
    ∃ t, RunPath resetsOnce t 3 1 := by
  refine ⟨inRun_meets_Inv _ test_fixture_builds.1 (by decide), rfl, rfl, rfl, after (after (after resetsOnce)), ?_⟩
  have h1 := runPath_after (b := false) (.start (s := resetsOnce)) rfl rfl (by decide) (by decide)
  have h2 := runPath_after (b := true) h1 (by decide) rfl (by decide) (by decide)
  exact runPath_after (b := false) h2 (by decide) rfl (by decide) (by decide)

/-- From power-on and after P4's invalid jump. -/
theorem witness_CleanRestart :
    ∃ s s' : State, s.betweenRuns = true ∧ s'.betweenRuns = true ∧ s.cfg = s'.cfg ∧ s.wdtHook = s'.wdtHook ∧
      s.hostReqs = [.run [0x00] 1] ∧ s'.hostReqs = [.run [0x00] 1] ∧ s.handlerReplies = s'.handlerReplies ∧
      s.hookReplies = s'.hookReplies ∧ s.handlerCalls = s'.handlerCalls ∧ s.hookCalls = s'.hookCalls ∧
      s'.jmpValid = true ∧ s'.err ≠ s.err :=
  ⟨waiting .ready [.run [0x00] 1], { endOfP4 with hostReqs := [.run [0x00] 1] }, by decide⟩

/-- Two states in a run that differ in REC, CUR, the stale target and LASTERR's last reply. -/
theorem witness_StepDependsOnNothingLeftOver :
    ∃ s t : State, SameRun s t ∧ s.engState = .running ∧ s.record ≠ t.record ∧ s.cur ≠ t.cur ∧
      s.jmpTarget ≠ t.jmpTarget ∧ s.lastErrorReply ≠ t.lastErrorReply := by
  refine ⟨inRun buildFX [0x00] [handled .ok []],
    { inRun buildFX [0x00] [handled .ok []] with
      record := recIV 1 1, cur := ⟨1, .single, 4, 1⟩, jmpTarget := 5, lastErrorReply := some .clear }, ?_, by decide⟩
  constructor <;> first | rfl | decide

theorem witness_EmptyProgramHalts :
    (waiting .ready [.run [] 0]).betweenRuns = true ∧ (waiting .ready [.run [] 0]).hostReqs = [.run [] 0] ∧
    configFlaw (waiting .ready [.run [] 0]).cfg = none :=
  ⟨by decide, by decide, test_fixture_builds.1⟩

end Witnesses

end Sys2Proof.Tests
end

section
/-! PROOF. Who writes WDT_HOOK (10_state.md R27, 42_sequencer.md R177). -/

namespace Sys2Proof.Machine

/-- The cycle at `s` calls its hook, and the hook's reply holds `setWatchdog v` (42_sequencer.md R163, R177). -/
def State.HookCallSets (s : State) (v : Option HookId) : Prop :=
  s.pc < s.totalLen ∧ ∃ hk o, s.wdtHook = some hk ∧ s.hookReply hk = .returned o ∧ o.reqs.hook = some v

/-- The cycle at `s` calls the handler of the instruction it decodes, and the handler's reply holds
`setWatchdog v` (42_sequencer.md R162, R177). -/
def State.HandlerCallSets (s : State) (v : Option HookId) : Prop :=
  ∃ u bytes rest i c r o, ReachesStepC s u ∧ u.window = some bytes ∧ decode u.cfg bytes = .ok (i, rest) ∧
    Dispatches i u c r o ∧ o.reqs.hook = some v

theorem State.applyRequests_wdtHook_cases (r : Requests) (s : State) :
    (s.applyRequests r).wdtHook = s.wdtHook ∨ r.hook = some (s.applyRequests r).wdtHook := by
  rw [State.applyRequests_wdtHook]
  cases r.hook with
  | none => exact .inl rfl
  | some v => exact .inr rfl

/-- The WDT_HOOK that step a of a cycle leaves is the old one, or the one that the hook sets. -/
theorem State.atStepB_wdtHook_cases {s u : State} (hp : s.pc < s.totalLen) (h : s.atStepB = some u) :
    u.wdtHook = s.wdtHook ∨ s.HookCallSets u.wdtHook := by
  obtain ⟨-, rfl⟩ | ⟨hk, o, hw, hrep, -, rfl⟩ := State.atStepB_cases h
  · exact .inl rfl
  · exact (State.applyRequests_wdtHook_cases o.reqs s.countHookCall).imp_right
      fun hv => ⟨hp, hk, o, hw, hrep, hv⟩

/-- What a cycle can do to WDT_HOOK. A handler call that sets nothing, and every way to end the cycle without a
handler call, keep what step a left. -/
theorem step_running_wdtHook_cases {s t : State} (hr : s.engState = .running) (h : step s = .next t) :
    t.wdtHook = s.wdtHook ∨ s.HookCallSets t.wdtHook ∨ s.HandlerCallSets t.wdtHook := by
  have ofStepB {u : State} (hp : s.pc < s.totalLen) (hB : s.atStepB = some u) (ht : t.wdtHook = u.wdtHook) :
      t.wdtHook = s.wdtHook ∨ s.HookCallSets t.wdtHook ∨ s.HandlerCallSets t.wdtHook := by
    rw [ht]
    exact (State.atStepB_wdtHook_cases hp hB).imp_right .inl
  obtain ⟨-, rfl⟩ | ⟨hp, hk, o, hw, hrep, -, rfl⟩ | ⟨hp, u, hB, -, rfl⟩ | ⟨u, op, tail, hC, hwin, hrest⟩ :=
    step_running_cases hr h
  · exact .inl (State.halt_wdtHook s)
  · rw [State.wdtAbort_wdtHook]
    exact (State.applyRequests_wdtHook_cases o.reqs s.countHookCall).imp_right
      fun hv => .inl ⟨hp, hk, o, hw, hrep, hv⟩
  · exact ofStepB hp hB (by simp)
  · obtain ⟨-, rfl⟩ | ⟨c, -, -, rfl⟩ | ⟨c, b, rest, o, -, -, hd, -, -, hdisp, rfl⟩ := hrest
    · exact ofStepB hC.inProgram hC.afterHook (by simp)
    · exact ofStepB hC.inProgram hC.afterHook (by simp)
    · obtain hkeep | hv := State.applyRequests_wdtHook_cases o.reqs
        ((u.latch c (fillRecord c.idx b)).countHandlerCall)
      · exact ofStepB hC.inProgram hC.afterHook ((State.arbitrate_wdtHook _ _).trans hkeep)
      · rw [← State.arbitrate_wdtHook o.resp] at hv
        exact .inr (.inr ⟨u, _, rest, _, c, _, o, hC, hwin, hd, hdisp, hv⟩)

/-- What a step between runs can do to WDT_HOOK: of the host's requests only `setWatchdog` writes it, so run start
does not. -/
theorem step_between_wdtHook_cases {s t : State} (hb : s.betweenRuns = true) (h : step s = .next t) :
    t.wdtHook = s.wdtHook ∨ ∃ reqs, s.hostReqs = .setWatchdog t.wdtHook :: reqs := by
  obtain ⟨-, rfl⟩ | ⟨r, reqs, hq, hserve⟩ := step_between_cases hb h
  · exact .inl rfl
  · obtain ⟨_, _, -, -, -, -, rfl⟩ | ⟨-, -, rfl⟩ | ⟨-, -, rfl⟩ | ⟨v, rfl, rfl⟩ | ⟨-, rfl⟩ | ⟨_, -, rfl⟩ := hserve
    · exact .inl rfl
    · exact .inl rfl
    · exact .inl rfl
    · exact .inr ⟨reqs, hq⟩
    · exact .inl rfl
    · exact .inl rfl

/-- Settles O53: a step is a cycle of a run or serves the host, and each says how it can write WDT_HOOK. -/
theorem onlySetWatchdogWritesTheHook : Obligations.OnlySetWatchdogWritesTheHook := by
  unfold Obligations.OnlySetWatchdogWritesTheHook
  intro s t h hne
  obtain hr | hb := step_engState_cases h
  · exact .inr (((step_running_wdtHook_cases hr h).resolve_left hne).imp_left fun hhook => ⟨hr, hhook⟩)
  · exact .inl ⟨hb, (step_between_wdtHook_cases hb h).resolve_left hne⟩

end Sys2Proof.Machine
end

section
/-! PROOF. The formats C0, C2 and X0, X2 to X4: what their bytes make of REC, and that they complete (41_decoder.md
R133, R135, R137 to R139). -/

namespace Sys2Proof.Machine

/-! ### Little-endian values as numbers -/

theorem wideOfHalf_le16 (b0 b1 : Byte) :
    wideOfHalf (le16 b0 b1) = BitVec.ofNat 32 (b0.toNat + 256 * b1.toNat) := by
  rw [← le16_toNat, BitVec.ofNat_toNat]
  rfl

theorem le32_eq_ofNat (b0 b1 b2 b3 : Byte) :
    le32 b0 b1 b2 b3 =
      BitVec.ofNat 32 (b0.toNat + 256 * b1.toNat + 65536 * b2.toNat + 16777216 * b3.toNat) := by
  rw [← le32_toNat, BitVec.ofNat_toNat, BitVec.setWidth_eq]

/-! ### Resolved bytes that parse -/

/-- A resolved class that parses has its layout's length. -/
theorem len_of_parseLayout {cfg : Config} {op : Byte} {tail w rest : List Byte} {c : Cur} {b : Layout}
    (hres : resolve cfg op w = .resolved c) (hparse : parseLayout cfg.mode c.cls tail = some (b, rest)) :
    c.len = b.bytes.length + 1 := by
  obtain ⟨hcls, hfits, -⟩ := parseLayout_some hparse
  have hlen := (resolve_resolved hres).1
  rw [← hcls, Layout.lenOf_of_fits hfits] at hlen
  exact (Option.some.inj hlen).symm

/-- Resolved bytes that parse as layout `b` decode to the instruction `i` of that layout, and where the handler
returns on the record of `b`, `i` completes with CUR the decode result and REC that record: the claim that every
format's statement makes of its own bytes (41_decoder.md R130, R132). -/
theorem parsesAndCompletes {s : State} {op : Byte} {tail rest : List Byte} {c : Cur} {b : Layout} {i : Instr}
    {o : HandlerOutcome} (hres : resolve s.cfg op (op :: tail) = .resolved c)
    (hparse : parseLayout s.cfg.mode c.cls tail = some (b, rest)) (hi : instrOfLayout s.cfg op b = i)
    (hreply : s.handlerReply c.handler (fillRecord c.idx b) = .returned o) :
    c.len = b.bytes.length + 1 ∧
    ∃ t, decode s.cfg (op :: tail) = .ok (i, rest) ∧ exec i s = .next t ∧ t.cur = c ∧
      t.record = fillRecord c.idx b := by
  have hlen := len_of_parseLayout hres hparse
  have hfit : c.len ≤ tail.length + 1 := by
    obtain ⟨-, -, htail⟩ := parseLayout_some hparse
    rw [hlen, ← htail, List.length_append]
    omega
  obtain ⟨b', rest', hparse', hdec, hcur, -⟩ := decode_resolved hres hfit
  obtain ⟨rfl, rfl⟩ : b = b' ∧ rest = rest' := by
    simpa using hparse.symm.trans hparse'
  subst hi
  have hd : Dispatches (instrOfLayout s.cfg op b) s c (fillRecord c.idx b) o :=
    ⟨hcur, ⟨op, b, instrOfLayout_format op b, rfl⟩, hreply⟩
  exact ⟨hlen, _, hdec, exec_of_dispatches hd, by simp [State.afterCall], by simp [State.afterCall]⟩

/-! ### Each format's bytes -/

theorem parseLayout_noOperand (m : Mode) (tail : List Byte) :
    parseLayout m .noOperand tail = some (.noOperand, tail) := by
  cases m <;> rfl

theorem instrOfLayout_noOperand {cfg : Config} (op : Byte) (hv : cfg.varlen = true) :
    instrOfLayout cfg op .noOperand = if cfg.mode = .compact then .classNoneC0 op else .classNoneX0 op := by
  cases hm : cfg.mode <;> simp [instrOfLayout, hv, hm]

/-- Settles O12, for both modes at once: NONE parses from no byte at all. -/
theorem noneFormatsParseAndComplete : Obligations.NoneFormatsParseAndComplete := by
  unfold Obligations.NoneFormatsParseAndComplete
  intro s op rest c o hv hres hcls hreply
  have hparse : parseLayout s.cfg.mode c.cls rest = some (.noOperand, rest) := by
    rw [hcls, parseLayout_noOperand]
  obtain ⟨hlen, t, h⟩ := parsesAndCompletes hres hparse (instrOfLayout_noOperand op hv) hreply
  exact ⟨hlen, _, t, rfl, h⟩

/-- Settles O14: `le16` of the two value bytes is the number they stand for. -/
theorem singleC2ParsesAndCompletes : Obligations.SingleC2ParsesAndCompletes := by
  unfold Obligations.SingleC2ParsesAndCompletes
  simp only [← wideOfHalf_le16]
  intro s op t1 a0 a1 rest c o hv hm hres hcls hreply
  have hparse : parseLayout s.cfg.mode c.cls (t1 :: a0 :: a1 :: rest) =
      some (.single16 t1 (le16 a0 a1), rest) := by
    rw [hm, hcls]; rfl
  have hi : instrOfLayout s.cfg op (.single16 t1 (le16 a0 a1)) = .classSingleC2 op t1 (le16 a0 a1) := by
    simp [instrOfLayout, hv, hm]
  obtain ⟨hlen, h⟩ := parsesAndCompletes hres hparse hi hreply
  exact ⟨hlen, _, h⟩

/-- Settles O16: `le32` of the four value bytes is the number they stand for. -/
theorem singleX2ParsesAndCompletes : Obligations.SingleX2ParsesAndCompletes := by
  unfold Obligations.SingleX2ParsesAndCompletes
  simp only [← le32_eq_ofNat]
  intro s op t1 a0 a1 a2 a3 rest c o hv hm hres hcls hreply
  have hparse : parseLayout s.cfg.mode c.cls (t1 :: a0 :: a1 :: a2 :: a3 :: rest) =
      some (.single32 t1 (le32 a0 a1 a2 a3), rest) := by
    rw [hm, hcls]; rfl
  have hi : instrOfLayout s.cfg op (.single32 t1 (le32 a0 a1 a2 a3)) =
      .classSingleX2 op t1 (le32 a0 a1 a2 a3) := by
    simp [instrOfLayout, hv, hm]
  obtain ⟨hlen, h⟩ := parsesAndCompletes hres hparse hi hreply
  exact ⟨hlen, _, h⟩

/-- Settles O17: the second pair begins right after the first, at offset 6. -/
theorem dualX3ParsesAndCompletes : Obligations.DualX3ParsesAndCompletes := by
  unfold Obligations.DualX3ParsesAndCompletes
  simp only [← le32_eq_ofNat]
  intro s op t1 a0 a1 a2 a3 t2 b0 b1 b2 b3 rest c o hv hm hres hcls hreply
  have hparse : parseLayout s.cfg.mode c.cls
      (t1 :: a0 :: a1 :: a2 :: a3 :: t2 :: b0 :: b1 :: b2 :: b3 :: rest) =
      some (.dual32 t1 (le32 a0 a1 a2 a3) t2 (le32 b0 b1 b2 b3), rest) := by
    rw [hm, hcls]; rfl
  have hi : instrOfLayout s.cfg op (.dual32 t1 (le32 a0 a1 a2 a3) t2 (le32 b0 b1 b2 b3)) =
      .classDualX3 op t1 (le32 a0 a1 a2 a3) t2 (le32 b0 b1 b2 b3) := by
    simp [instrOfLayout, hv, hm]
  obtain ⟨hlen, h⟩ := parsesAndCompletes hres hparse hi hreply
  exact ⟨hlen, _, _, h⟩

/-! ### DUAL_EXT alone -/

/-- No COMPACT build resolves to DUAL_EXT: the class has no length there (30_encoding.md R74). -/
theorem resolve_compact_ne_dualExt {cfg : Config} {op : Byte} {w : List Byte} {c : Cur}
    (hm : cfg.mode = .compact) (hres : resolve cfg op w = .resolved c) : c.cls ≠ .dualExt := by
  intro hcls
  have hlen := (resolve_resolved hres).1
  rw [hm, hcls] at hlen
  cases hlen

/-- With EXT_BITS = 3, bit 10 of a DUAL_EXT index is the type bit of TYPE3 (40_dispatch.md R102). -/
theorem idx_bit10_of_dualExt {cfg : Config} {op : Byte} {w : List Byte} {c : Cur} (he : cfg.extBits = 3)
    (hcls : c.cls = .dualExt) (hres : resolve cfg op w = .resolved c) :
    c.idx.getLsbD 10 = typeBit cfg.mode w 3 := by
  obtain ⟨-, hidx, -⟩ := resolve_resolved hres
  rw [hidx, foldIndex_getLsbD, hcls, he]
  simp [LenClass.hasType]

/-- Settles O18: the length rules the class out of COMPACT, the fold gives bit 10, and the rest is parsing. -/
theorem dualExtX4ParsesAndCompletes : Obligations.DualExtX4ParsesAndCompletes := by
  unfold Obligations.DualExtX4ParsesAndCompletes
  simp only [← le32_eq_ofNat]
  refine ⟨fun cfg op w c hm hres => resolve_compact_ne_dualExt hm hres, ?_⟩
  intro s op t1 a0 a1 a2 a3 t2 b0 b1 b2 b3 t3 c0 c1 c2 c3 rest c o hv hm hres hcls hreply
  have hparse : parseLayout s.cfg.mode c.cls
      (t1 :: a0 :: a1 :: a2 :: a3 :: t2 :: b0 :: b1 :: b2 :: b3 :: t3 :: c0 :: c1 :: c2 :: c3 :: rest) =
      some (.dualExt32 t1 (le32 a0 a1 a2 a3) t2 (le32 b0 b1 b2 b3) t3 (le32 c0 c1 c2 c3), rest) := by
    rw [hm, hcls]; rfl
  have hi : instrOfLayout s.cfg op
      (.dualExt32 t1 (le32 a0 a1 a2 a3) t2 (le32 b0 b1 b2 b3) t3 (le32 c0 c1 c2 c3)) =
      .classDualExtX4 op t1 (le32 a0 a1 a2 a3) t2 (le32 b0 b1 b2 b3) t3 (le32 c0 c1 c2 c3) := by
    simp [instrOfLayout, hv, hm]
  have hbit10 : s.cfg.extBits = 3 → c.idx.getLsbD 10 = t3.msb := by
    intro he
    rw [idx_bit10_of_dualExt he hcls hres, hm]
    rfl
  obtain ⟨hlen, h⟩ := parsesAndCompletes hres hparse hi hreply
  exact ⟨hlen, hbit10, _, _, _, h⟩

end Sys2Proof.Machine
end

section
/-! PROOF. How a run starts and the three ways it halts (42_sequencer.md R161, R167). -/

namespace Sys2Proof.Machine

/-! ### Run start -/

/-- A RUN request that the model takes, served between runs, is run start on the queue without it. -/
theorem step_of_runRequest {s : State} {prog : List Byte} {n : Nat} {reqs : List HostRequest}
    (hb : s.betweenRuns = true) (hq : s.hostReqs = .run prog n :: reqs) (hc : configFlaw s.cfg = none)
    (hn : n ≤ 2 ^ s.cfg.pcW - 1) (hl : n ≤ prog.length) :
    step s = .next (State.startRun prog n { s with hostReqs := reqs }) := by
  obtain ⟨hidle, hne⟩ := step_of_betweenRuns hb
  rw [hidle, State.idle, hq]
  exact State.hostRun_next (s := { s with hostReqs := reqs }) hne hc hn hl

/-- Settles O41: the next state is run start's, which is one record update. -/
theorem runStartWrites : Obligations.RunStartWrites := by
  unfold Obligations.RunStartWrites
  intro s prog n reqs hb hq hc hn hl
  exact ⟨_, step_of_runRequest hb hq hc hn hl, rfl, rfl, rfl, rfl, rfl, rfl,
    fun off => Memory.read_ofBytes off prog, rfl, rfl⟩

/-! ### The arbiter and halt -/

/-- The state after a handler call has a pending jump exactly when the hook or the handler of this cycle asked for
one (42_sequencer.md R187). -/
@[simp] theorem State.afterCall_jmpValid (s : State) (c : Cur) (r : InstrRecord) (o : HandlerOutcome) :
    (s.afterCall c r o).jmpValid = jumpPending s o := by
  simp [State.afterCall, jumpPending]

@[simp] theorem State.afterCall_pc (s : State) (c : Cur) (r : InstrRecord) (o : HandlerOutcome) :
    (s.afterCall c r o).pc = s.pc := by
  simp [State.afterCall]

@[simp] theorem State.afterCall_totalLen (s : State) (c : Cur) (r : InstrRecord) (o : HandlerOutcome) :
    (s.afterCall c r o).totalLen = s.totalLen := by
  simp [State.afterCall]

@[simp] theorem State.afterCall_err (s : State) (c : Cur) (r : InstrRecord) (o : HandlerOutcome) :
    (s.afterCall c r o).err = s.err := by
  simp [State.afterCall]

@[simp] theorem State.afterCall_engState (s : State) (c : Cur) (r : InstrRecord) (o : HandlerOutcome) :
    (s.afterCall c r o).engState = s.engState := by
  simp [State.afterCall]

/-- END inside the program with no jump pending halts (42_sequencer.md R183). -/
theorem State.arbitrate_endRun {s : State} (hp : s.pc < s.totalLen) (hj : s.jmpValid = false) :
    s.arbitrate .endRun = s.halt := by
  simp [State.arbitrate, State.signal, Nat.not_le.2 hp, hj]

/-- In a run the arbiter halts for nothing but END with no jump pending: its other branches abort or leave ENG_STATE
alone. -/
theorem State.endRun_of_arbitrate_halted {s : State} {resp : Resp} (hr : s.engState = .running)
    (h : (s.arbitrate resp).engState = .halted) : resp = .endRun ∧ s.jmpValid = false := by
  rcases State.arbitrate_cases resp s with ⟨-, ha⟩ | ⟨-, -, ha⟩ | ⟨-, -, -, -, ha⟩ | ⟨-, -, -, -, ha⟩ |
    ⟨-, -, -, ha⟩ | ⟨hend, -, hj, -⟩ | ⟨-, -, -, ha⟩
  · simp [ha] at h
  · simp [ha] at h
  · simp [ha] at h
  · simp [ha, hr] at h
  · simp [ha, hr] at h
  · exact ⟨hend, hj⟩
  · simp [ha, hr] at h

/-! ### The three ways to halt -/

/-- Step b of the cycle at `s` finds a stop (42_sequencer.md R164). -/
def State.StopsAtStepB (s : State) : Prop :=
  s.pc < s.totalLen ∧ ∃ u, s.atStepB = some u ∧ u.termReq = true

/-- Step h of the cycle at `s` gets END from the handler, with no jump pending (42_sequencer.md R183). -/
def State.EndsAtStepH (s : State) : Prop :=
  ∃ u bytes rest i c r o, ReachesStepC s u ∧ u.window = some bytes ∧ decode u.cfg bytes = .ok (i, rest) ∧
    Dispatches i u c r o ∧ o.resp = .endRun ∧ jumpPending u o = false

/-- The three ways to halt that 42_sequencer.md R167 lists. -/
def State.HasWayToHalt (s : State) : Prop :=
  s.totalLen ≤ s.pc ∨ s.StopsAtStepB ∨ s.EndsAtStepH

theorem step_of_pastEnd {s : State} (hr : s.engState = .running) (hp : s.totalLen ≤ s.pc) :
    step s = .next s.halt := by
  simp only [step, hr, State.cycle, if_neg (Nat.not_lt.2 hp)]

theorem step_of_stopAtStepB {s u : State} (hr : s.engState = .running) (hp : s.pc < s.totalLen)
    (hB : s.atStepB = some u) (hs : u.termReq = true) : step s = .next u.clearStop.halt := by
  rw [step_of_atStepB hr hp hB, State.stopOrFetch, if_pos hs]

/-- A cycle whose instruction decodes and whose handler returns ends as the arbiter decides. -/
theorem step_of_dispatches {s u : State} {bytes rest : List Byte} {i : Instr} {c : Cur} {r : InstrRecord}
    {o : HandlerOutcome} (hC : ReachesStepC s u) (hwin : u.window = some bytes)
    (hd : decode u.cfg bytes = .ok (i, rest)) (hdisp : Dispatches i u c r o) :
    step s = .next ((u.afterCall c r o).arbitrate o.resp) := by
  rw [step_of_reachesStepC hC, State.fetchAndExec, hwin]
  simp only [hd]
  exact exec_of_dispatches hdisp

/-- Each of the three ways halts, with the PC and the error record that the cycle began with. -/
theorem step_of_hasWayToHalt {s : State} (hr : s.engState = .running) (h : s.HasWayToHalt) :
    ∃ u : State, step s = .next u.halt ∧ u.pc = s.pc ∧ u.err = s.err := by
  obtain hp | ⟨hp, u, hB, hs⟩ | ⟨u, bytes, rest, i, c, r, o, hC, hwin, hd, hdisp, hresp, hj⟩ := h
  · exact ⟨s, step_of_pastEnd hr hp, rfl, rfl⟩
  · obtain ⟨-, -, hpc, -, -, herr, -⟩ := State.atStepB_frame hB
    exact ⟨u.clearStop, step_of_stopAtStepB hr hp hB hs, hpc, herr⟩
  · obtain ⟨-, -, hpc, hlen, -, herr, -⟩ := State.atStepB_frame hC.afterHook
    have hin : (u.afterCall c r o).pc < (u.afterCall c r o).totalLen := by
      simpa [hpc, hlen] using hC.inProgram
    have hnoJump : (u.afterCall c r o).jmpValid = false := by simpa using hj
    refine ⟨u.afterCall c r o, ?_, by simpa using hpc, by simpa using herr⟩
    rw [step_of_dispatches hC hwin hd hdisp, hresp, State.arbitrate_endRun hin hnoJump]

/-- A cycle that halts does so in one of the three ways: the watchdog, an instruction past the end and an undefined
opcode abort or fault, and the arbiter halts for END alone. -/
theorem hasWayToHalt_of_step {s t : State} (hr : s.engState = .running) (h : step s = .next t)
    (ht : t.engState = .halted) : s.HasWayToHalt := by
  obtain ⟨hp, -⟩ | ⟨-, hk, o, -, -, -, rfl⟩ | ⟨hp, u, hB, hs, -⟩ | ⟨u, op, tail, hC, hwin, hrest⟩ :=
    step_running_cases hr h
  · exact .inl hp
  · simp at ht
  · exact .inr (.inl ⟨hp, u, hB, hs⟩)
  · obtain ⟨-, rfl⟩ | ⟨c, -, -, rfl⟩ | ⟨c, b, rest, o, -, -, hd, -, -, hdisp, rfl⟩ := hrest
    · simp at ht
    · simp at ht
    · obtain ⟨-, heng, -⟩ := State.atStepB_frame hC.afterHook
      have hrun : (u.afterCall c (fillRecord c.idx b) o).engState = .running := by
        rw [State.afterCall_engState, heng, hr]
      obtain ⟨hresp, hj⟩ := State.endRun_of_arbitrate_halted hrun ht
      rw [State.afterCall_jmpValid] at hj
      exact .inr (.inr ⟨u, _, rest, _, c, _, o, hC, hwin, hd, hdisp, hresp, hj⟩)

/-- Settles O35: a halting cycle has one of the three ways, and each way halts with the PC and the error record it
began with, which the invariant says is clear in a run. -/
theorem threeWaysToHalt : Obligations.ThreeWaysToHalt := by
  unfold Obligations.ThreeWaysToHalt
  intro s t hinv hr h
  obtain ⟨-, -, hclear⟩ := hinv.running hr
  have hways : s.HasWayToHalt → t.engState = .halted ∧ t.result = .ok ∧ t.pc = s.pc ∧ t.err = .clear := by
    intro hw
    obtain ⟨u, hu, hpc, herr⟩ := step_of_hasWayToHalt hr hw
    obtain rfl : u.halt = t := Host.Outcome.next.inj (hu.symm.trans h)
    exact ⟨rfl, rfl, hpc, herr.trans hclear⟩
  exact ⟨⟨hasWayToHalt_of_step hr h, fun hw => (hways hw).1⟩,
    fun ht => (hways (hasWayToHalt_of_step hr h ht)).2⟩

end Sys2Proof.Machine
end

section
/-! PROOF. The decoder and the encoder are inverse to each other (30_encoding.md R72, 41_decoder.md R132). -/

namespace Sys2Proof.Machine

/-! ### Which instructions are well-formed -/

/-- An UNDEFINED term is well-formed when it holds 1 to 16 bytes that no class claims. -/
theorem wellFormed_undefinedOpcode {cfg : Config} {bytes : List Byte} :
    WellFormed cfg (.undefinedOpcode bytes) = true ↔
      ∃ op tail, bytes = op :: tail ∧ tail.length ≤ 15 ∧ resolve cfg op (op :: tail) = .undefined := by
  cases bytes with
  | nil => simp [WellFormed]
  | cons op tail => simp [WellFormed]

/-- A format instruction is well-formed when the build's table gives it a decode result. -/
theorem cur_of_wellFormed {cfg : Config} {i : Instr} {op : Byte} {b : Layout} (hf : i.format = some (op, b))
    (hwf : WellFormed cfg i = true) : ∃ c, i.cur cfg = some c := by
  apply Option.isSome_iff_exists.1
  cases i with
  | undefinedOpcode => cases hf
  | _ => exact hwf

theorem undefinedOpcode_of_format_none {i : Instr} (hf : i.format = none) :
    ∃ bytes, i = .undefinedOpcode bytes := by
  cases i <;> cases hf
  exact ⟨_, rfl⟩

/-- `cur_cases` for an instruction whose opcode byte and layout are known. -/
theorem layout_of_cur {cfg : Config} {i : Instr} {op : Byte} {b : Layout} {c : Cur} (hf : i.format = some (op, b))
    (hc : i.cur cfg = some c) :
    b.fitsMode cfg.mode = true ∧ i = instrOfLayout cfg op b ∧ c.cls = b.cls ∧
      (cfg.varlen = true ∧ entryFor cfg op (b.typeHigh 1) (b.typeHigh 2) (b.typeHigh 3) b.cls = some c ∨
       cfg.varlen = false ∧ fixedClass cfg = some b.cls ∧
         fixedEntry cfg op (b.typeHigh 1) (b.typeHigh 2) (b.typeHigh 3) b.cls = some c) := by
  obtain ⟨op', b', hf', h⟩ := cur_cases hc
  obtain ⟨rfl, rfl⟩ : op = op' ∧ b = b' := by simpa using hf.symm.trans hf'
  exact h

/-! ### Decoding what was encoded -/

/-- In a build the model takes, the bytes of an instruction of the build resolve to its own decode result: the type
bits that the length phase reads are the layout's. -/
theorem resolve_encoded {cfg : Config} {i : Instr} {op : Byte} {b : Layout} {c : Cur} (rest : List Byte)
    (hflaw : configFlaw cfg = none) (hf : i.format = some (op, b)) (hc : i.cur cfg = some c) :
    resolve cfg op (op :: (b.bytes ++ rest)) = .resolved c := by
  obtain ⟨hfits, -, hcls, hentry⟩ := layout_of_cur hf hc
  have hbit (k : Nat) (hk : b.cls.hasType k = true) :
      b.typeHigh k = typeBit cfg.mode (op :: (b.bytes ++ rest)) k := (typeBit_layout op rest k hfits hk).symm
  obtain ⟨hv, he⟩ | ⟨hv, hfix, he⟩ := hentry
  · rw [entryFor_congr op (hbit 1) (hbit 2) (hbit 3), ← hcls] at he
    exact resolve_of_entryFor hv (tableWf_one (configFlaw_none hflaw).1) he
  · rw [fixedEntry, foldIndex_congr cfg.extBits op (hbit 1) (hbit 2) (hbit 3)] at he
    exact resolve_of_fixedEntry hv hfix he

/-- Resolved bytes that parse decode to the instruction of the layout. -/
theorem decode_of_parseLayout {cfg : Config} {op : Byte} {tail rest : List Byte} {c : Cur} {b : Layout}
    (hres : resolve cfg op (op :: tail) = .resolved c) (hparse : parseLayout cfg.mode c.cls tail = some (b, rest)) :
    decode cfg (op :: tail) = .ok (instrOfLayout cfg op b, rest) := by
  have hfit : ¬ tail.length + 1 < c.len := by
    rw [len_of_parseLayout hres hparse, ← (parseLayout_some hparse).2.2, List.length_append]
    omega
  simp only [decode, hres, if_neg hfit, hparse]

/-- Settles O2: a format instruction's bytes resolve to its own decode result and parse as its own layout; an
UNDEFINED term's bytes still resolve to no class. -/
theorem decodeInvertsEncode : Obligations.DecodeInvertsEncode := by
  unfold Obligations.DecodeInvertsEncode
  intro cfg i rest hflaw hwf hend
  cases hf : i.format with
  | none =>
    obtain rfl := hend hf
    obtain ⟨bytes, rfl⟩ := undefinedOpcode_of_format_none hf
    obtain ⟨op, tail, rfl, hlen, hres⟩ := wellFormed_undefinedOpcode.1 hwf
    simp [encode, decode, hres, List.take_of_length_le hlen, hlen]
  | some ob =>
    obtain ⟨op, b⟩ := ob
    obtain ⟨c, hc⟩ := cur_of_wellFormed hf hwf
    obtain ⟨hfits, hi, hcls, -⟩ := layout_of_cur hf hc
    have hparse : parseLayout cfg.mode c.cls (b.bytes ++ rest) = some (b, rest) := by
      rw [hcls, parseLayout_bytes rest hfits]
    rw [encode_of_format hf, List.cons_append, decode_of_parseLayout (resolve_encoded rest hflaw hf hc) hparse, ← hi]

/-! ### Encoding what was decoded -/

/-- Settles O3: the bytes UNDEFINED keeps resolve as all of them did, and a layout's bytes are those parsed. -/
theorem encodeInvertsDecode : Obligations.EncodeInvertsDecode := by
  unfold Obligations.EncodeInvertsDecode
  intro cfg bytes rest i h
  cases bytes with
  | nil => cases h
  | cons op tail =>
    obtain ⟨hres, hd⟩ | ⟨-, hd⟩ | ⟨-, hd⟩ | ⟨c, -, -, hd⟩ | ⟨c, b, rest', -, -, hd, hcur, -, -, hb⟩ :=
      decode_cases cfg op tail
    · obtain ⟨rfl, rfl⟩ : .undefinedOpcode (op :: tail.take 15) = i ∧ tail.drop 15 = rest := by
        simpa using hd.symm.trans h
      refine ⟨by simp [encode], wellFormed_undefinedOpcode.2 ⟨op, _, rfl, by simp, ?_⟩⟩
      rw [← hres, ← resolve_take cfg op (op :: tail)]
      rfl
    · cases hd.symm.trans h
    · cases hd.symm.trans h
    · cases hd.symm.trans h
    · obtain ⟨rfl, rfl⟩ : instrOfLayout cfg op b = i ∧ rest' = rest := by simpa using hd.symm.trans h
      rw [encode_of_format (instrOfLayout_format op b), List.cons_append, hb]
      exact ⟨rfl, wellFormed_of_cur hcur⟩

/-- Settles O1: each word is small and closed, so the decoder is run on it. -/
theorem decoderReadsSpecWords : Obligations.DecoderReadsSpecWords := by
  unfold Obligations.DecoderReadsSpecWords
  decide

end Sys2Proof.Machine
end

section
/-! PROOF. The arbiter's truth table with the frame of the handler call (42_sequencer.md R168 to R187). -/

namespace Sys2Proof.Machine

/-! ### The state after the handler call, field by field -/

section AfterCall
variable (s : State) (c : Cur) (r : InstrRecord) (o : HandlerOutcome)

@[simp] theorem State.afterCall_cfg : (s.afterCall c r o).cfg = s.cfg := by
  simp [State.afterCall]
@[simp] theorem State.afterCall_jmpTarget : (s.afterCall c r o).jmpTarget = pendingTarget s o := by
  simp [State.afterCall, pendingTarget]
@[simp] theorem State.afterCall_termReq : (s.afterCall c r o).termReq = (s.termReq || o.reqs.stop) := by
  simp [State.afterCall]
@[simp] theorem State.afterCall_wdtHook : (s.afterCall c r o).wdtHook = o.reqs.hook.getD s.wdtHook := by
  simp [State.afterCall]
@[simp] theorem State.afterCall_result : (s.afterCall c r o).result = s.result := by
  simp [State.afterCall]
@[simp] theorem State.afterCall_record : (s.afterCall c r o).record = r := by
  simp [State.afterCall]
@[simp] theorem State.afterCall_cur : (s.afterCall c r o).cur = c := by
  simp [State.afterCall]
@[simp] theorem State.afterCall_faultReason : (s.afterCall c r o).faultReason = s.faultReason := by
  simp [State.afterCall]
@[simp] theorem State.afterCall_faultPc : (s.afterCall c r o).faultPc = s.faultPc := by
  simp [State.afterCall]
@[simp] theorem State.afterCall_mem : (s.afterCall c r o).mem = s.mem.overlay o.reqs.prog := by
  simp [State.afterCall]
@[simp] theorem State.afterCall_hostReqs : (s.afterCall c r o).hostReqs = s.hostReqs := by
  simp [State.afterCall]
@[simp] theorem State.afterCall_lastErrorReply : (s.afterCall c r o).lastErrorReply = s.lastErrorReply := by
  simp [State.afterCall]
@[simp] theorem State.afterCall_handlerReplies : (s.afterCall c r o).handlerReplies = s.handlerReplies.tail := by
  simp [State.afterCall]
@[simp] theorem State.afterCall_hookReplies : (s.afterCall c r o).hookReplies = s.hookReplies := by
  simp [State.afterCall]
@[simp] theorem State.afterCall_handlerCalls : (s.afterCall c r o).handlerCalls = s.handlerCalls + 1 := by
  simp [State.afterCall]
@[simp] theorem State.afterCall_hookCalls : (s.afterCall c r o).hookCalls = s.hookCalls := by
  simp [State.afterCall]

/-- The frame of a handler call holds whatever the arbiter then does: it writes none of these elements. -/
theorem callFrame_arbitrate (resp : Resp) : CallFrame o.reqs s ((s.afterCall c r o).arbitrate resp) where
  cfg := by simp
  totalLen := by simp
  termReq := by simp
  wdtHook := by simp
  faultReason := by simp
  faultPc := by simp
  memory := by simp [Memory.read_overlay]
  hostReqs := by simp
  lastErrorReply := by simp
  hookReplies := by simp
  hookCalls := by simp
  handlerReplies := by simp
  handlerCalls := by simp

end AfterCall

/-- The record that an instruction of the build hands to its handler is that of a layout which the build has and whose
class is CUR's. -/
theorem Dispatches.layout {i : Instr} {s : State} {c : Cur} {r : InstrRecord} {o : HandlerOutcome}
    (hd : Dispatches i s c r o) :
    ∃ b, b.fitsMode s.cfg.mode = true ∧ c.cls = b.cls ∧ r = fillRecord c.idx b := by
  obtain ⟨op, b, hf, hr⟩ := hd.record
  obtain ⟨hfits, -, hcls, -⟩ := layout_of_cur hf hd.cur
  exact ⟨b, hfits, hcls, hr⟩

/-! ### The arbiter, row by row; `arbitrate_endRun` stands with the ways to halt -/

theorem State.arbitrate_error (s : State) : s.arbitrate .error = s.abort .handler s.pc s.record := rfl

theorem State.arbitrate_boundsAnomaly {s : State} {resp : Resp} (he : resp ≠ .error) (hp : s.totalLen ≤ s.pc) :
    s.arbitrate resp = s.abort .boundsAnomaly s.pc s.record := by
  simp [State.arbitrate, he, hp]

theorem State.arbitrate_invalidJump {s : State} {resp : Resp} (he : resp ≠ .error) (hp : s.pc < s.totalLen)
    (hj : s.jmpValid = true) (ht : s.totalLen ≤ s.jmpTarget.toNat) :
    s.arbitrate resp = s.abort .invalidJump s.pc s.record := by
  simp [State.arbitrate, State.jumpOrAbort, he, Nat.not_le.2 hp, hj, ht]

theorem State.arbitrate_validJump {s : State} {resp : Resp} (he : resp ≠ .error) (hp : s.pc < s.totalLen)
    (hj : s.jmpValid = true) (ht : s.jmpTarget.toNat < s.totalLen) : s.arbitrate resp = s.takeJump := by
  simp [State.arbitrate, State.jumpOrAbort, he, Nat.not_le.2 hp, hj, Nat.not_le.2 ht]

theorem State.arbitrate_ok {s : State} (hp : s.pc < s.totalLen) (hj : s.jmpValid = false) :
    s.arbitrate .ok = s.advance := by
  simp [State.arbitrate, State.signal, Nat.not_le.2 hp, hj]

theorem State.arbitrate_reset {s : State} (hp : s.pc < s.totalLen) (hj : s.jmpValid = false) :
    s.arbitrate .reset = s.resetPc := by
  simp [State.arbitrate, State.signal, Nat.not_le.2 hp, hj]

/-- A target inside a program that PC_W bits can count is taken whole. -/
theorem target_mod_of_lt {target len w : Nat} (ht : target < len) (hlen : len ≤ 2 ^ w - 1) :
    target % 2 ^ w = target := Nat.mod_eq_of_lt (by omega)

/-- With no jump pending the call made no jump request, so JMP_TARGET keeps its value. -/
theorem pendingTarget_of_not_pending {s : State} {o : HandlerOutcome} (hj : jumpPending s o = false) :
    pendingTarget s o = s.jmpTarget := by
  have hnil : o.reqs.jumps = [] := by simpa [jumpPending] using (Bool.or_eq_false_iff.1 hj).2
  simp [pendingTarget, hnil]

/-- A pending jump inside the program is taken after the call, whatever the signal but ERROR (42_sequencer.md
R181). -/
theorem State.afterCall_takeJump {s : State} (c : Cur) (r : InstrRecord) {o : HandlerOutcome}
    (he : o.resp ≠ .error) (hj : jumpPending s o = true) (hp : s.pc < s.totalLen)
    (ht : (pendingTarget s o).toNat < s.totalLen) :
    (s.afterCall c r o).arbitrate o.resp = (s.afterCall c r o).takeJump :=
  State.arbitrate_validJump he (by simpa using hp) (by simpa using hj) (by simpa using ht)

/-! ### The rows of the truth table -/

/-- Settles O22: the arbiter advances, and at TOTAL_LEN the loop test of the next cycle halts. -/
theorem okAdvancesPc : Obligations.OkAdvancesPc := by
  unfold Obligations.OkAdvancesPc
  intro i s c r o hd hresp hj hp
  have hframe := callFrame_arbitrate s c r o o.resp
  have hstep := exec_of_dispatches hd
  rw [hresp, State.arbitrate_ok (by simpa using hp) (by simpa using hj)] at hframe hstep
  refine ⟨_, hstep, by simp, by simp, by simp, by simp, by simpa using hj,
    by simpa using pendingTarget_of_not_pending hj, by simp, by simp, hframe,
    fun hfits => ⟨by simpa using hfits, fun hend hrun => ?_⟩⟩
  exact ⟨_, step_of_pastEnd hrun (Nat.le_of_eq hend.symm), rfl, rfl⟩

/-- Settles O23: the arbiter halts, or takes the jump that overrides END. -/
theorem endHaltsTheRun : Obligations.EndHaltsTheRun := by
  unfold Obligations.EndHaltsTheRun
  intro i s c r o hd hresp hp hlen
  refine ⟨_, exec_of_dispatches hd, by simp, by simp, callFrame_arbitrate s c r o o.resp, fun hj => ?_,
    fun hj ht => ?_⟩
  · rw [hresp, State.arbitrate_endRun (by simpa using hp) (by simpa using hj)]
    simp [hj, pendingTarget_of_not_pending hj]
  · rw [State.afterCall_takeJump c r (by simp [hresp]) hj hp ht]
    simp [target_mod_of_lt ht hlen]

/-- Settles O24: the arbiter sets PC to 0, or takes the jump that overrides RESET. -/
theorem resetSetsPcToZero : Obligations.ResetSetsPcToZero := by
  unfold Obligations.ResetSetsPcToZero
  intro i s c r o hd hresp hp hlen
  refine ⟨_, exec_of_dispatches hd, by simp, by simp, callFrame_arbitrate s c r o o.resp, fun hj => ?_,
    fun hj ht => ?_⟩
  · rw [hresp, State.arbitrate_reset (by simpa using hp) (by simpa using hj)]
    simp [hj, pendingTarget_of_not_pending hj]
  · rw [State.afterCall_takeJump c r (by simp [hresp]) hj hp ht]
    simp [target_mod_of_lt ht hlen]

/-- Settles O25: the arbiter looks at the jump register before the signal. -/
theorem validJumpBeatsTheSignal : Obligations.ValidJumpBeatsTheSignal := by
  unfold Obligations.ValidJumpBeatsTheSignal
  intro i s c r o hd hresp hj hp hlen ht
  have hframe := callFrame_arbitrate s c r o o.resp
  have hstep := exec_of_dispatches hd
  rw [State.afterCall_takeJump c r hresp hj hp ht] at hframe hstep
  exact ⟨_, hstep, by simp [target_mod_of_lt ht hlen], by simp, by simp, by simp, by simp, by simp, by simp, by simp,
    hframe⟩

/-- What an abort after the call leaves, for the three aborts of the arbiter. -/
theorem exec_of_arbitrate_abort {i : Instr} {s : State} {c : Cur} {r : InstrRecord} {o : HandlerOutcome}
    {kind : ErrKind} (hd : Dispatches i s c r o)
    (habort : (s.afterCall c r o).arbitrate o.resp =
      (s.afterCall c r o).abort kind (s.afterCall c r o).pc (s.afterCall c r o).record) :
    ∃ t, exec i s = .next t ∧ t.engState = .aborted ∧ t.result = .fail ∧ t.err = ⟨kind, s.pc, r⟩ ∧
      t.pc = s.pc ∧ t.jmpValid = jumpPending s o ∧ t.jmpTarget = pendingTarget s o ∧ t.cur = c ∧ t.record = r ∧
      CallFrame o.reqs s t := by
  have hframe := callFrame_arbitrate s c r o o.resp
  have hstep := exec_of_dispatches hd
  rw [habort] at hframe hstep
  exact ⟨_, hstep, by simp, by simp, by simp, by simp, by simp, by simp, by simp, by simp, hframe⟩

/-- Settles O26: JMP_VALID stays set because the abort writes no jump register. -/
theorem invalidJumpAborts : Obligations.InvalidJumpAborts := by
  unfold Obligations.InvalidJumpAborts
  intro i s c r o hd hresp hj hp ht
  have h := exec_of_arbitrate_abort hd
    (State.arbitrate_invalidJump hresp (by simpa using hp) (by simpa using hj) (by simpa using ht))
  rwa [hj] at h

/-- Settles O27: ERROR is the arbiter's first test. -/
theorem handlerErrorAborts : Obligations.HandlerErrorAborts := by
  unfold Obligations.HandlerErrorAborts
  intro i s c r o hd hresp
  exact exec_of_arbitrate_abort hd (by rw [hresp, State.arbitrate_error])

/-- Settles O28: the bounds re-check comes before the jump register and the signal. -/
theorem boundsAnomalyAborts : Obligations.BoundsAnomalyAborts := by
  unfold Obligations.BoundsAnomalyAborts
  intro i s c r o hd hresp hp
  exact exec_of_arbitrate_abort hd (State.arbitrate_boundsAnomaly hresp (by simpa using hp))

/-! ### A call's contract and its requests -/

/-- Settles O30: DISPATCH ends as the reply says. -/
theorem brokenHandlerContractsStop : Obligations.BrokenHandlerContractsStop := by
  unfold Obligations.BrokenHandlerContractsStop
  intro i s c op b hc hf
  constructor <;> intro hreply <;> rw [exec_of_cur hc hf, State.dispatch, hreply]

/-- Settles O31: the requests of a call are one record update, whose image is read byte by byte. -/
theorem requestsAreApplied : Obligations.RequestsAreApplied := by
  unfold Obligations.RequestsAreApplied
  intro r s
  rw [State.applyRequests_eq]
  exact ⟨rfl, rfl, rfl, rfl, fun off => Memory.read_overlay s.mem r.prog off, rfl⟩

end Sys2Proof.Machine
end

section
/-! PROOF. The execution cycle around an instruction: fetch, loop test, watchdog, stop and length check
(20_memory.md R52, R56, 42_sequencer.md R162 to R167). -/

namespace Sys2Proof.Machine

/-! ### The fetch window -/

/-- Settles O33: a window is a buffer read of that many bytes, and a covering buffer has them all. -/
theorem fetchReadsOnlyTheProgram : Obligations.FetchReadsOnlyTheProgram := by
  unfold Obligations.FetchReadsOnlyTheProgram
  intro s
  refine ⟨fun bytes hwin => ?_, fun hcov => Memory.readBytes_total fun k hk => ?_⟩
  · obtain ⟨hlen, hread⟩ := Memory.readBytes_spec hwin
    refine ⟨hlen, fun k hk => ⟨?_, hread k (hlen ▸ hk)⟩⟩
    omega
  · exact (Memory.covers_iff s.mem s.totalLen).1 hcov _ (by omega)

/-- An instruction is longer than the window exactly when it runs past TOTAL_LEN: no instruction is longer than the
16 bytes a cycle looks at. -/
theorem State.window_lt_len_iff {s : State} {op : Byte} {tail : List Byte} {c : Cur}
    (hwin : s.window = some (op :: tail)) (hres : resolve s.cfg op (op :: tail) = .resolved c) :
    tail.length + 1 < c.len ↔ s.totalLen < s.pc + c.len := by
  have hlen : tail.length + 1 = min maxLen (s.totalLen - s.pc) := State.window_length hwin
  have hmax : c.len ≤ maxLen := (resolve_bounds hres).2.1
  omega

/-! ### Step c -/

/-- Settles O32: step c is decode, then exec; without a hook step a changes nothing. -/
theorem stepRunsTheDecodedInstruction : Obligations.StepRunsTheDecodedInstruction := by
  unfold Obligations.StepRunsTheDecodedInstruction
  intro s u bytes rest i hC hwin hd
  refine ⟨by rw [step_of_reachesStepC hC, State.fetchAndExec, hwin]; simp only [hd], fun hnone => ?_⟩
  obtain ⟨-, h⟩ | ⟨hk, -, hsome, -⟩ := State.atStepB_cases hC.afterHook
  · exact h
  · cases hnone.symm.trans hsome

/-- Bytes that no class claims end the cycle in the Faulted state (42_sequencer.md R165, 60_exceptions.md R218). -/
theorem step_of_undefined {s u : State} {op : Byte} {tail : List Byte} (hC : ReachesStepC s u)
    (hwin : u.window = some (op :: tail)) (hres : resolve u.cfg op (op :: tail) = .undefined) :
    step s = .next (u.enterFault .undefinedOpcode) := by
  rw [step_of_reachesStepC hC, State.fetchAndExec, hwin]
  simp only [decode, hres, exec_undefined]

/-- An instruction that runs past the end of the bytes ends the cycle in a LENGTH abort (42_sequencer.md R165). -/
theorem step_of_decode_pastEnd {s u : State} {op : Byte} {tail : List Byte} {c : Cur} (hC : ReachesStepC s u)
    (hwin : u.window = some (op :: tail)) (hres : resolve u.cfg op (op :: tail) = .resolved c)
    (hlen : tail.length + 1 < c.len) :
    step s = .next ((u.latch c u.record).abort .length u.pc .zero) := by
  rw [step_of_reachesStepC hC, State.fetchAndExec, hwin]
  simp only [decode, hres, if_pos hlen]

/-- Settles O20: both ways are the one fault entry. -/
theorem undefinedOpcodeFaults : Obligations.UndefinedOpcodeFaults := by
  unfold Obligations.UndefinedOpcodeFaults
  exact ⟨fun bytes s => ⟨_, exec_undefined bytes s, rfl⟩,
    fun s u op tail hC hwin hres => ⟨_, step_of_undefined hC hwin hres, rfl⟩⟩

/-- Settles O38: the length check against the window is the one against TOTAL_LEN. -/
theorem lengthAbortExactlyWhenPastEnd : Obligations.LengthAbortExactlyWhenPastEnd := by
  unfold Obligations.LengthAbortExactlyWhenPastEnd
  intro s u op tail hC hwin
  refine ⟨fun c hres => ⟨fun hpast => ?_, fun hfits => ?_⟩, fun hres => ⟨_, step_of_undefined hC hwin hres, rfl⟩⟩
  · exact ⟨_, step_of_decode_pastEnd hC hwin hres ((State.window_lt_len_iff hwin hres).2 hpast), rfl⟩
  · have hle : c.len ≤ tail.length + 1 :=
      Nat.not_lt.1 fun hlt => Nat.not_lt.2 hfits ((State.window_lt_len_iff hwin hres).1 hlt)
    obtain ⟨b, rest, -, hd, hcur, -⟩ := decode_resolved hres hle
    exact ⟨_, rest, hd, hcur, (stepRunsTheDecodedInstruction s u _ rest _ hC hwin hd).1⟩

/-! ### The loop test, steps a and b, and the Faulted state -/

/-- Settles O34: the loop test is the first thing a cycle does. -/
theorem loopTestHaltsAtTheEnd : Obligations.LoopTestHaltsAtTheEnd := by
  unfold Obligations.LoopTestHaltsAtTheEnd
  intro s hr hp
  exact ⟨_, step_of_pastEnd hr hp, rfl⟩

/-- A cycle inside the program begins with step a. -/
theorem step_of_inProgram {s : State} (hr : s.engState = .running) (hp : s.pc < s.totalLen) :
    step s = s.watchdogThenRest := by
  simp only [step, hr, State.cycle, if_pos hp]

/-- The watchdog abort writes ENG_STATE, RESULT and, by WDT_POLICY, the error record. -/
theorem State.wdtAbort_frame (s : State) :
    s.wdtAbort = { s with engState := .aborted, result := .fail, err := s.wdtAbort.err } := by
  unfold State.wdtAbort
  cases s.cfg.wdtPolicy <;> rfl

/-- Settles O36: the hook's requests are applied, then the watchdog aborts. -/
theorem watchdogFailureAborts : Obligations.WatchdogFailureAborts := by
  unfold Obligations.WatchdogFailureAborts
  intro s hk o hr hp hw hreply hok
  have hstep : step s = .next (s.countHookCall.applyRequests o.reqs).wdtAbort := by
    simp [step_of_inProgram hr hp, State.watchdogThenRest, hw, hreply, hok]
  refine ⟨_, hstep, by simp, by simp, ?_, ?_, by simp, by simp, by simp, by simp, by simp [Memory.read_overlay], ?_⟩
  · intro hpol
    simp [State.wdtAbort_err, hpol]
  · intro hpol
    simp only [State.wdtAbort_err, State.applyRequests_cfg, State.countHookCall_cfg, hpol, if_true]
    simp [InstrRecord.zero]
  · rw [State.wdtAbort_frame, State.applyRequests_eq]
    rfl

/-- Settles O37: step b halts the state that step a left, and step a moves neither the PC nor the handler's
counter. -/
theorem stopHaltsAtStepB : Obligations.StopHaltsAtStepB := by
  unfold Obligations.StopHaltsAtStepB
  intro s u hr hp hB hs
  obtain ⟨-, -, hpc, -, -, -, -, -, -, -, -, -, -, hcalls, -⟩ := State.atStepB_frame hB
  exact ⟨_, step_of_stopAtStepB hr hp hB hs, rfl, hpc, hcalls⟩

/-- Settles O59: step a ends as the hook's reply says. -/
theorem brokenHookContractsStop : Obligations.BrokenHookContractsStop := by
  unfold Obligations.BrokenHookContractsStop
  intro s hk hr hp hw
  constructor <;> intro hreply <;> simp only [step_of_inProgram hr hp, State.watchdogThenRest, hw, hreply]

/-- Settles O39: `step` looks at ENG_STATE first. -/
theorem faultedHasNoWayOut : Obligations.FaultedHasNoWayOut := by
  unfold Obligations.FaultedHasNoWayOut
  intro s hf
  simp only [step, hf]

end Sys2Proof.Machine
end

section
/-! PROOF. Every step keeps the invariant (10_state.md section 3, 20_memory.md section 1). -/

namespace Sys2Proof.Machine

/-! ### The part of the invariant that every operation keeps -/

/-- The clauses of `Inv` that speak of no ENG_STATE: the buffer, the ranges of PC and ERR_ADDR, and the shapes of REC,
ERR_SNAP and CUR. -/
structure InRange (s : State) : Prop where
  memWf : Memory.wf s.mem
  buffer : s.mem.covers s.totalLen = true
  lengthFits : s.totalLen ≤ 2 ^ s.cfg.pcW - 1
  pcInProgram : s.pc ≤ s.totalLen
  errAddr : s.err.addr ≤ s.totalLen
  recordShape : RecordShape s.cfg s.record
  snapShape : RecordShape s.cfg s.err.snap
  curIndex : s.cur.idx.toNat < nOps s.cfg
  curLen : 1 ≤ s.cur.len ∧ s.cur.len ≤ maxLen

theorem Inv.inRange {s : State} (h : Inv s) : InRange s :=
  ⟨h.memWf, h.buffer, h.lengthFits, h.pcInProgram, h.errAddr, h.recordShape, h.snapShape, h.curIndex, h.curLen⟩

/-- What holds in the middle of a cycle, a jump being pending or not. -/
structure MidCycle (s : State) : Prop where
  inRange : InRange s
  running : s.engState = .running
  noFlaw : configFlaw s.cfg = none
  errClear : s.err = .clear
  noFault : s.faultReason = none

theorem Inv.midCycle {s : State} (h : Inv s) (hr : s.engState = .running) : MidCycle s where
  inRange := h.inRange
  running := hr
  noFlaw := (h.running hr).1
  errClear := (h.running hr).2.2
  noFault := by
    have := h.faultRecorded
    simpa [hr] using this

/-! ### Shapes -/

theorem recordShape_zero (cfg : Config) : RecordShape cfg .zero where
  index := Nat.mul_pos (by decide) (Nat.two_pow_pos _)
  compact := fun _ => by decide

theorem wideOfHalf_lt (v : Half) : (wideOfHalf v).toNat < 2 ^ 16 := by
  rw [wideOfHalf, BitVec.toNat_setWidth]
  omega

@[simp] theorem fillRecord_opcodeIndex (idx : OpIndex) (b : Layout) : (fillRecord idx b).opcodeIndex = idx := by
  cases b <;> rfl

/-- The record of a layout of the build has the build's shape. -/
theorem recordShape_fillRecord {cfg : Config} {idx : OpIndex} {b : Layout} (hidx : idx.toNat < nOps cfg)
    (hfits : b.fitsMode cfg.mode = true) : RecordShape cfg (fillRecord idx b) where
  index := by simpa using hidx
  compact := by
    intro hm
    rw [hm] at hfits
    cases b with
    | noOperand => exact ⟨rfl, rfl, Nat.two_pow_pos 16, Nat.two_pow_pos 16⟩
    | narrow raw => exact ⟨rfl, rfl, Nat.two_pow_pos 16, Nat.two_pow_pos 16⟩
    | single16 t1 v1 => exact ⟨rfl, rfl, wideOfHalf_lt v1, Nat.two_pow_pos 16⟩
    | dual16 t1 v1 t2 v2 pad => exact ⟨rfl, rfl, wideOfHalf_lt v1, wideOfHalf_lt v2⟩
    | single32 => cases hfits
    | dual32 => cases hfits
    | dualExt32 => cases hfits

/-! ### What happens inside a cycle -/

theorem MidCycle.applyRequests {s : State} (h : MidCycle s) (r : Requests) : MidCycle (s.applyRequests r) := by
  rw [State.applyRequests_eq]
  exact { h with inRange := { h.inRange with
    memWf := Memory.overlay_keeps_wf r.prog h.inRange.memWf
    buffer := (Memory.overlay_keeps_covers s.mem r.prog s.totalLen).trans h.inRange.buffer } }

theorem MidCycle.countHookCall {s : State} (h : MidCycle s) : MidCycle s.countHookCall :=
  { h with inRange := { h.inRange with } }

theorem MidCycle.countHandlerCall {s : State} (h : MidCycle s) : MidCycle s.countHandlerCall :=
  { h with inRange := { h.inRange with } }

theorem MidCycle.clearStop {s : State} (h : MidCycle s) : MidCycle s.clearStop :=
  { h with inRange := { h.inRange with } }

theorem MidCycle.latch {s : State} {c : Cur} {r : InstrRecord} (h : MidCycle s) (hidx : c.idx.toNat < nOps s.cfg)
    (hlen : 1 ≤ c.len ∧ c.len ≤ maxLen) (hr : RecordShape s.cfg r) : MidCycle (s.latch c r) :=
  { h with inRange := { h.inRange with recordShape := hr, curIndex := hidx, curLen := hlen } }

theorem MidCycle.atStepB {s u : State} (h : MidCycle s) (hB : s.atStepB = some u) : MidCycle u := by
  obtain ⟨-, rfl⟩ | ⟨hk, o, -, -, -, rfl⟩ := State.atStepB_cases hB
  · exact h
  · exact h.countHookCall.applyRequests o.reqs

/-- After the handler call of an instruction of the build a cycle is still in its middle. -/
theorem MidCycle.afterCall {s : State} {i : Instr} {c : Cur} {r : InstrRecord} {o : HandlerOutcome} (h : MidCycle s)
    (hd : Dispatches i s c r o) : MidCycle (s.afterCall c r o) := by
  obtain ⟨hlen, hidx⟩ := cur_bounds hd.cur
  obtain ⟨b, hfits, -, rfl⟩ := hd.layout
  have hlatch := h.latch hidx (lenOf_bounds hlen) (recordShape_fillRecord hidx hfits)
  exact hlatch.countHandlerCall.applyRequests o.reqs

/-! ### The ends of a cycle -/

theorem MidCycle.halt {s : State} (h : MidCycle s) : Inv s.halt :=
  { h.inRange with
    faultRecorded := by simp [h.noFault]
    faultPc := by simp
    running := by simp
    halted := fun _ => ⟨rfl, h.errClear⟩
    aborted := by simp }

/-- An abort at an address inside the program with a snapshot of the build's shape. -/
theorem MidCycle.abort {s : State} {kind : ErrKind} {addr : Nat} {snap : InstrRecord} (h : MidCycle s)
    (haddr : addr ≤ s.totalLen) (hsnap : RecordShape s.cfg snap) : Inv (s.abort kind addr snap) :=
  { h.inRange with
    errAddr := haddr
    snapShape := hsnap
    faultRecorded := by simp [h.noFault]
    faultPc := by simp
    running := by simp
    halted := by simp
    aborted := fun _ => rfl }

theorem MidCycle.wdtAbort {s : State} (h : MidCycle s) : Inv s.wdtAbort := by
  have keepsRecord : Inv { s with engState := .aborted, result := .fail } :=
    { h.inRange with
      faultRecorded := by simp [h.noFault]
      faultPc := by simp
      running := by simp
      halted := by simp
      aborted := fun _ => rfl }
  unfold State.wdtAbort
  cases s.cfg.wdtPolicy with
  | preserve => exact keepsRecord
  | normalize => exact h.abort h.inRange.pcInProgram (recordShape_zero _)

theorem MidCycle.enterFault {s : State} (h : MidCycle s) (reason : FaultReason) : Inv (s.enterFault reason) :=
  { h.inRange with
    faultRecorded := by simp
    faultPc := fun _ => rfl
    running := by simp
    halted := by simp
    aborted := by simp }

/-- A cycle that goes on has a PC inside the program and no jump pending. -/
theorem MidCycle.goOn {s : State} {pc : Nat} (h : MidCycle s) (hpc : pc ≤ s.totalLen) :
    Inv { s with pc := pc, jmpValid := false } :=
  { h.inRange with
    pcInProgram := hpc
    faultRecorded := by simp [h.noFault, h.running]
    faultPc := by simp [h.running]
    running := fun _ => ⟨h.noFlaw, rfl, h.errClear⟩
    halted := by simp [h.running]
    aborted := by simp [h.running] }

/-- The arbiter ends a cycle well where the instruction ends inside the program. -/
theorem MidCycle.arbitrate {s : State} (h : MidCycle s) (resp : Resp) (hfits : s.pc + s.cur.len ≤ s.totalLen) :
    Inv (s.arbitrate resp) := by
  have goOn {pc : Nat} (hpc : pc ≤ s.totalLen) (hj : s.jmpValid = false) : Inv { s with pc := pc } := by
    have hinv := h.goOn hpc
    rwa [← hj] at hinv
  have habort (kind : ErrKind) : Inv (s.abort kind s.pc s.record) :=
    h.abort h.inRange.pcInProgram h.inRange.recordShape
  rcases State.arbitrate_cases resp s with ⟨-, ha⟩ | ⟨-, -, ha⟩ | ⟨-, -, -, -, ha⟩ | ⟨-, -, -, ht, ha⟩ |
    ⟨-, -, hj, ha⟩ | ⟨-, -, -, ha⟩ | ⟨-, -, hj, ha⟩ <;> rw [ha]
  · exact habort .handler
  · exact habort .boundsAnomaly
  · exact habort .invalidJump
  · exact h.goOn ((Nat.mod_le _ _).trans (Nat.le_of_lt ht))
  · exact goOn hfits hj
  · exact h.halt
  · exact goOn (Nat.zero_le _) hj

/-- A cycle keeps the invariant. -/
theorem step_running_keeps_inv {s t : State} (hinv : Inv s) (hr : s.engState = .running) (h : step s = .next t) :
    Inv t := by
  have hmid := hinv.midCycle hr
  obtain ⟨-, rfl⟩ | ⟨-, hk, o, -, -, -, rfl⟩ | ⟨-, u, hB, -, rfl⟩ | ⟨u, op, tail, hC, hwin, hrest⟩ :=
    step_running_cases hr h
  · exact hmid.halt
  · exact (hmid.countHookCall.applyRequests o.reqs).wdtAbort
  · exact (hmid.atStepB hB).clearStop.halt
  · have hu := hmid.atStepB hC.afterHook
    obtain ⟨-, rfl⟩ | ⟨c, hres, -, rfl⟩ | ⟨c, b, rest, o, hres, hle, -, -, -, hd, rfl⟩ := hrest
    · exact hu.enterFault _
    · obtain ⟨hpos, hmax, hidx⟩ := resolve_bounds hres
      exact (hu.latch hidx ⟨hpos, hmax⟩ hu.inRange.recordShape).abort hu.inRange.pcInProgram (recordShape_zero _)
    · have hfits : u.pc + c.len ≤ u.totalLen :=
        Nat.not_lt.1 fun hlt => Nat.not_lt.2 hle ((State.window_lt_len_iff hwin hres).2 hlt)
      exact (hu.afterCall hd).arbitrate o.resp (by simpa using hfits)

/-! ### Between runs -/

theorem State.betweenRuns_iff {s : State} :
    s.betweenRuns = true ↔ s.engState = .ready ∨ s.engState = .halted ∨ s.engState = .aborted := by
  simp [State.betweenRuns, or_assoc]

/-- Run start of a program that PC_W bits and the buffer hold begins a run that meets the invariant, whatever an
earlier run left. -/
theorem Inv.startRun {s : State} {prog : List Byte} {n : Nat} (h : Inv s) (hb : s.betweenRuns = true)
    (hflaw : configFlaw s.cfg = none) (hn : n ≤ 2 ^ s.cfg.pcW - 1) (hl : n ≤ prog.length) :
    Inv (s.startRun prog n) where
  memWf := Memory.ofBytes_wf prog
  buffer := Memory.ofBytes_covers hl
  lengthFits := hn
  pcInProgram := Nat.zero_le n
  errAddr := Nat.zero_le n
  recordShape := h.recordShape
  snapShape := recordShape_zero _
  curIndex := h.curIndex
  curLen := h.curLen
  faultRecorded := by
    have hne : s.engState ≠ .faulted := by
      obtain he | he | he := State.betweenRuns_iff.1 hb <;> simp [he]
    have := h.faultRecorded
    simpa [hne] using this
  faultPc := by simp
  running := fun _ => ⟨hflaw, rfl, rfl⟩
  halted := by simp
  aborted := by simp

/-- A step between runs keeps the invariant: but for run start and the fault entry, the host writes nothing it speaks
of while no run is in progress. -/
theorem step_between_keeps_inv {s t : State} (hinv : Inv s) (hb : s.betweenRuns = true) (h : step s = .next t) :
    Inv t := by
  have hne : s.engState ≠ .running := (step_of_betweenRuns hb).2
  obtain ⟨-, rfl⟩ | ⟨r, reqs, -, hserve⟩ := step_between_cases hb h
  · exact hinv
  · have hq : Inv { s with hostReqs := reqs } := { hinv with }
    obtain ⟨prog, n, -, hflaw, hn, hl, rfl⟩ | ⟨-, -, rfl⟩ | ⟨-, -, rfl⟩ | ⟨v, -, rfl⟩ | ⟨-, rfl⟩ | ⟨x, -, rfl⟩ :=
      hserve
    · exact hq.startRun hb hflaw hn hl
    · exact { hinv with
        faultRecorded := by simp
        faultPc := fun _ => rfl
        running := by simp
        halted := by simp
        aborted := by simp }
    · exact { hinv with }
    · exact { hinv with }
    · exact { hinv with }
    · exact { hinv with running := fun he => absurd he hne }

/-- Settles O49: a step is a cycle of a run or serves the host, and each keeps the invariant. -/
theorem stepKeepsTheInvariant : Obligations.StepKeepsTheInvariant := by
  unfold Obligations.StepKeepsTheInvariant
  intro s t hinv h
  obtain hr | hb := step_engState_cases h
  · exact step_running_keeps_inv hinv hr h
  · exact step_between_keeps_inv hinv hb h

/-- Settles O48: every element is zero, and no run has been started. -/
theorem resetMeetsTheInvariant : Obligations.ResetMeetsTheInvariant where
  memWf := List.Pairwise.nil
  buffer := rfl
  lengthFits := Nat.zero_le _
  pcInProgram := Nat.le_refl 0
  errAddr := Nat.le_refl 0
  recordShape := recordShape_zero _
  snapShape := recordShape_zero _
  curIndex := by decide
  curLen := by decide
  faultRecorded := by decide
  faultPc := by decide
  running := by simp [State.reset]
  halted := by decide
  aborted := by decide

end Sys2Proof.Machine
end

section
/-! PROOF. What every step keeps, and how many handler calls a run makes (10_state.md R21 to R25, R35, 42_sequencer.md
R169, R188). -/

namespace Sys2Proof.Machine

/-! ### How a cycle can end -/

/-- The four ends of a cycle from `s` in `t`: the run goes on, halts, aborts (with a record of this cycle or, by
WDT_POLICY, the one of before), or enters the Faulted state. -/
inductive CycleEnd (s t : State) : Prop where
  | goesOn (engState : t.engState = .running) (noJump : t.jmpValid = false) (err : t.err = s.err)
  | halts (engState : t.engState = .halted) (err : t.err = s.err)
  | aborts (engState : t.engState = .aborted) (result : t.result = .fail)
      (err : t.err = s.err ∨ t.err.addr = s.pc ∧ t.err.kind ≠ .boundsAnomaly)
  | faults (engState : t.engState = .faulted) (err : t.err = s.err)

/-- The arbiter ends a cycle inside the program in one of the four ways, and never with BOUNDS_ANOMALY. -/
theorem State.arbitrate_cycleEnd {s : State} (resp : Resp) (hr : s.engState = .running) (hp : s.pc < s.totalLen) :
    CycleEnd s (s.arbitrate resp) := by
  rcases State.arbitrate_cases resp s with ⟨-, ha⟩ | ⟨-, hpast, -⟩ | ⟨-, -, -, -, ha⟩ | ⟨-, -, -, -, ha⟩ |
    ⟨-, -, hj, ha⟩ | ⟨-, -, -, ha⟩ | ⟨-, -, hj, ha⟩
  · rw [ha]
    exact .aborts rfl rfl (.inr ⟨rfl, by simp⟩)
  · exact absurd hp (Nat.not_lt.2 hpast)
  · rw [ha]
    exact .aborts rfl rfl (.inr ⟨rfl, by simp⟩)
  · rw [ha]
    exact .goesOn hr rfl rfl
  · rw [ha]
    exact .goesOn hr hj rfl
  · rw [ha]
    exact .halts rfl rfl
  · rw [ha]
    exact .goesOn hr hj rfl

/-- What a cycle ends in, what it never changes, and that only a cycle inside the program calls a handler, once; a
cycle that goes on has called it. -/
structure CycleEffect (s t : State) : Prop where
  ends : CycleEnd s t
  cfg : t.cfg = s.cfg
  totalLen : t.totalLen = s.totalLen
  calls : t.handlerCalls = s.handlerCalls ∧ t.engState ≠ .running ∨
    t.handlerCalls = s.handlerCalls + 1 ∧ s.pc < s.totalLen

/-- `CycleEnd` looks at the PC and the error record alone of the state a cycle begins in. -/
theorem CycleEnd.of_eq {s u t : State} (h : CycleEnd u t) (herr : u.err = s.err) (hpc : u.pc = s.pc) :
    CycleEnd s t := by
  obtain ⟨he, hj, hrec⟩ | ⟨he, hrec⟩ | ⟨he, hres, hrec⟩ | ⟨he, hrec⟩ := h
  · exact .goesOn he hj (hrec.trans herr)
  · exact .halts he (hrec.trans herr)
  · exact .aborts he hres (by rwa [← herr, ← hpc])
  · exact .faults he (hrec.trans herr)

/-- All that a cycle does. -/
theorem step_running_effect {s t : State} (hr : s.engState = .running) (h : step s = .next t) :
    CycleEffect s t := by
  obtain ⟨-, rfl⟩ | ⟨-, hk, o, -, -, -, rfl⟩ | ⟨-, u, hB, -, rfl⟩ | ⟨u, op, tail, hC, -, hrest⟩ :=
    step_running_cases hr h
  · exact ⟨.halts rfl rfl, rfl, rfl, .inl ⟨rfl, by simp⟩⟩
  · refine ⟨.aborts (by simp) (by simp) ?_, by simp, by simp, .inl ⟨by simp, by simp⟩⟩
    rw [State.wdtAbort_err]
    split
    · exact .inr ⟨by simp, by simp⟩
    · exact .inl (by simp)
  · obtain ⟨hcfg, -, -, hlen, -, herr, -, -, -, -, -, -, -, hcalls, -⟩ := State.atStepB_frame hB
    exact ⟨.halts rfl herr, hcfg, hlen, .inl ⟨hcalls, by simp⟩⟩
  · obtain ⟨hcfg, heng, hpc, hlen, -, herr, -, -, -, -, -, -, -, hcalls, -⟩ := State.atStepB_frame hC.afterHook
    obtain ⟨-, rfl⟩ | ⟨c, -, -, rfl⟩ | ⟨c, b, rest, o, -, -, -, -, -, -, rfl⟩ := hrest
    · exact ⟨.faults rfl herr, hcfg, hlen, .inl ⟨hcalls, by simp⟩⟩
    · exact ⟨.aborts rfl rfl (.inr ⟨hpc, by simp⟩), hcfg, hlen, .inl ⟨hcalls, by simp⟩⟩
    · have hin : u.pc < u.totalLen := by rw [hpc, hlen]; exact hC.inProgram
      have hend := State.arbitrate_cycleEnd (s := u.afterCall c (fillRecord c.idx b) o) o.resp
        (by simpa [heng] using hr) (by simpa using hin)
      exact ⟨hend.of_eq (by simpa using herr) (by simpa using hpc), by simpa using hcfg, by simpa using hlen,
        .inr ⟨by simpa using hcalls, hC.inProgram⟩⟩

/-! ### What every step keeps -/

/-- A step between runs keeps the build, and it keeps the error record unless it starts a run. -/
theorem step_between_frame {s t : State} (hb : s.betweenRuns = true) (h : step s = .next t) :
    t.cfg = s.cfg ∧ (t.err = s.err ∨ t.engState = .running ∧ t.err = .clear) ∧
    legalTransition s.engState t.engState = true := by
  have hlegal : legalTransition s.engState s.engState = true ∧ legalTransition s.engState .running = true := by
    obtain he | he | he := State.betweenRuns_iff.1 hb <;> rw [he] <;> exact ⟨rfl, rfl⟩
  obtain ⟨hstay, hstart⟩ := hlegal
  obtain ⟨-, rfl⟩ | ⟨r, reqs, -, hserve⟩ := step_between_cases hb h
  · exact ⟨rfl, .inl rfl, hstay⟩
  · obtain ⟨prog, n, -, -, -, -, rfl⟩ | ⟨-, hready, rfl⟩ | ⟨-, -, rfl⟩ | ⟨v, -, rfl⟩ | ⟨-, rfl⟩ | ⟨x, -, rfl⟩ := hserve
    · exact ⟨rfl, .inr ⟨rfl, rfl⟩, hstart⟩
    · exact ⟨rfl, .inl rfl, by simp [hready, legalTransition]⟩
    · exact ⟨rfl, .inl rfl, hstay⟩
    · exact ⟨rfl, .inl rfl, hstay⟩
    · exact ⟨rfl, .inl rfl, hstay⟩
    · exact ⟨rfl, .inl rfl, hstay⟩

/-- Settles O50: neither a cycle nor the host's service writes the build. -/
theorem stepKeepsTheConfiguration : Obligations.StepKeepsTheConfiguration := by
  unfold Obligations.StepKeepsTheConfiguration
  intro s t h
  obtain hr | hb := step_engState_cases h
  · exact (step_running_effect hr h).cfg
  · exact (step_between_frame hb h).1

/-- Settles O51: TOTAL_LEN is in the frame of every cycle. -/
theorem totalLenFixedDuringARun : Obligations.TotalLenFixedDuringARun := by
  unfold Obligations.TotalLenFixedDuringARun
  intro s t hr h
  exact (step_running_effect hr h).totalLen

/-- Settles O52: each of the four ends of a cycle is on the list, and so is what the host can do. -/
theorem engStateTransitionsAreLegal : Obligations.EngStateTransitionsAreLegal := by
  unfold Obligations.EngStateTransitionsAreLegal
  intro s t h
  obtain hr | hb := step_engState_cases h
  · obtain ⟨he, -, -⟩ | ⟨he, -⟩ | ⟨he, -, -⟩ | ⟨he, -⟩ := (step_running_effect hr h).ends <;> rw [hr, he] <;> rfl
  · exact (step_between_frame hb h).2.2

/-- Settles O54: the other three ends leave RUNNING. -/
theorem noJumpOutlivesItsCycle : Obligations.NoJumpOutlivesItsCycle := by
  unfold Obligations.NoJumpOutlivesItsCycle
  intro s t hr h ht
  obtain ⟨-, hj, -⟩ | ⟨he, -⟩ | ⟨he, -, -⟩ | ⟨he, -⟩ := (step_running_effect hr h).ends
  · exact hj
  · cases ht.symm.trans he
  · cases ht.symm.trans he
  · cases ht.symm.trans he

/-- Settles O55: of the four ends of a cycle only an abort writes the record, and of the host's requests only RUN. -/
theorem onlyRunStartAndAbortsWriteTheErrorRecord : Obligations.OnlyRunStartAndAbortsWriteTheErrorRecord := by
  unfold Obligations.OnlyRunStartAndAbortsWriteTheErrorRecord
  intro s t h hne
  obtain hr | hb := step_engState_cases h
  · obtain ⟨-, -, herr⟩ | ⟨-, herr⟩ | ⟨he, hres, herr⟩ | ⟨-, herr⟩ := (step_running_effect hr h).ends
    · exact absurd herr hne
    · exact absurd herr hne
    · exact .inl ⟨hr, he, hres, (herr.resolve_left hne).1⟩
    · exact absurd herr hne
  · obtain ⟨-, herr, -⟩ := step_between_frame hb h
    exact .inr ⟨(step_of_betweenRuns hb).2, herr.resolve_left hne⟩

/-- Settles O29: the record of a run in progress is clear, and no end of a cycle writes that kind. -/
theorem noRunReachesBoundsAnomaly : Obligations.NoRunReachesBoundsAnomaly := by
  unfold Obligations.NoRunReachesBoundsAnomaly
  intro s t hinv hr h
  have hkept (herr : t.err = s.err) : t.err.kind ≠ .boundsAnomaly := by
    obtain ⟨-, -, hclear⟩ := hinv.running hr
    rw [herr, hclear]
    decide
  obtain ⟨-, -, herr⟩ | ⟨-, herr⟩ | ⟨-, -, herr | ⟨-, hkind⟩⟩ | ⟨-, herr⟩ := (step_running_effect hr h).ends
  · exact hkept herr
  · exact hkept herr
  · exact hkept herr
  · exact hkind
  · exact hkept herr

/-! ### The bound on handler calls -/

/-- What a path of cycles keeps: the invariant and TOTAL_LEN; the bound; and, while the run goes on, the sharper bound
in which the calls since the last redirection are at most the PC. -/
structure PathBound (s t : State) (calls redirects : Nat) : Prop where
  inv : Inv t
  totalLen : t.totalLen = s.totalLen
  bound : calls ≤ (redirects + 1) * s.totalLen
  sharp : t.engState = .running → calls ≤ redirects * s.totalLen + t.pc

/-- One more cycle keeps the bounds: a call made past the instruction moves the PC by at least 1, and a redirection
pays for a whole pass of the program. -/
theorem PathBound.cycle {s t u : State} {calls redirects : Nat} (h : PathBound s t calls redirects)
    (hr : t.engState = .running) (hstep : step t = .next u) :
    PathBound s u (calls + (u.handlerCalls - t.handlerCalls)) (redirects + if redirected t u then 1 else 0) := by
  have heff := step_running_effect hr hstep
  have hinv := step_running_keeps_inv h.inv hr hstep
  have hsharp := h.sharp hr
  have hbound := h.bound
  rw [Nat.succ_mul] at hbound
  have hpass : redirects * s.totalLen ≤ (redirects + if redirected t u then 1 else 0) * s.totalLen :=
    Nat.mul_le_mul_right _ (Nat.le_add_right _ _)
  refine ⟨hinv, heff.totalLen.trans h.totalLen, ?_, fun hu => ?_⟩
  · rw [Nat.succ_mul]
    obtain ⟨hcalls, -⟩ | ⟨hcalls, hp⟩ := heff.calls
    · omega
    · have := h.totalLen
      omega
  · obtain ⟨-, hne⟩ | ⟨hcalls, hp⟩ := heff.calls
    · exact absurd hu hne
    · have hlen := h.totalLen
      cases hred : redirected t u with
      | true =>
        rw [if_pos rfl, Nat.succ_mul]
        omega
      | false =>
        have hpc : u.pc = t.pc + u.cur.len := by simpa [redirected, hu] using hred
        have hpos := hinv.curLen.1
        simp only [Bool.false_eq_true, if_false, Nat.add_zero]
        omega

theorem pathBound_of_runPath {s t : State} {calls redirects : Nat} (hinv : Inv s)
    (hpath : RunPath s t calls redirects) : PathBound s t calls redirects := by
  induction hpath with
  | start => exact ⟨hinv, rfl, Nat.zero_le _, fun _ => Nat.zero_le _⟩
  | cycle _ hr hstep ih => exact ih.cycle hr hstep

/-- Settles O56: the path from the run's start keeps `PathBound`, which holds of no calls at all. -/
theorem handlerCallsAreBounded : Obligations.HandlerCallsAreBounded := by
  unfold Obligations.HandlerCallsAreBounded
  intro s t calls redirects hinv _ _ hpath
  exact (pathBound_of_runPath hinv hpath).bound

end Sys2Proof.Machine
end

section
/-! PROOF. The host's interfaces: requests between runs, refusals of RUN, and what the host reads (10_state.md R40 to
R44, 42_sequencer.md R160, R175 to R178, R190, 60_exceptions.md R219). -/

namespace Sys2Proof.Machine

/-! ### Requests between runs -/

/-- A step between runs serves the oldest request, which leaves the queue. -/
theorem step_of_request {s : State} {r : HostRequest} {reqs : List HostRequest} (hb : s.betweenRuns = true)
    (hq : s.hostReqs = r :: reqs) : step s = State.serve r { s with hostReqs := reqs } := by
  rw [(step_of_betweenRuns hb).1, State.idle, hq]

/-- Settles O43: each request is served by its own register update. -/
theorem hostControlRequests : Obligations.HostControlRequests := by
  unfold Obligations.HostControlRequests
  intro s reqs hb
  refine ⟨fun v hq => step_of_request hb hq, fun hq => step_of_request hb hq, fun t hq => step_of_request hb hq,
    fun hq => ?_⟩
  rw [(step_of_betweenRuns hb).1, State.idle, hq]

/-- Settles O45: "before any run" is READY. -/
theorem lastErrorReadsTheRecord : Obligations.LastErrorReadsTheRecord := by
  unfold Obligations.LastErrorReadsTheRecord
  intro s reqs hq
  constructor
  · intro hready
    rw [step_of_request (State.betweenRuns_iff.2 (.inl hready)) hq, State.serve, State.hostLastError, if_pos hready]
    rfl
  · intro hended
    have hne : s.engState ≠ .ready := by obtain he | he := hended <;> simp [he]
    rw [step_of_request (State.betweenRuns_iff.2 (.inr hended)) hq, State.serve, State.hostLastError, if_neg hne]

/-- Settles O58: run start, then the loop test at once, since PC and TOTAL_LEN are both 0. -/
theorem emptyProgramHalts : Obligations.EmptyProgramHalts := by
  unfold Obligations.EmptyProgramHalts
  intro s prog reqs hb hq hflaw
  have hstart := step_of_runRequest hb hq hflaw (Nat.zero_le _) (Nat.zero_le _)
  have hhalt := step_of_pastEnd (s := State.startRun prog 0 { s with hostReqs := reqs }) rfl (Nat.le_refl 0)
  have hrun : Sys2Proof.core.run 2 s = .next (State.startRun prog 0 { s with hostReqs := reqs }).halt :=
    (run_next 1 hstart).trans (run_next 0 hhalt)
  exact ⟨_, hrun, rfl, rfl, rfl, rfl, rfl, rfl⟩

/-! ### Refusals of RUN -/

/-- A flaw of the build is refused under its own name. -/
theorem State.hostRun_flawed {s : State} {prog : List Byte} {n : Nat} {flaw : ConfigFlaw} (he : s.engState ≠ .running)
    (hflaw : configFlaw s.cfg = some flaw) : s.hostRun prog n = .refused (refusalOf flaw) := by
  rw [State.hostRun, if_neg he, hflaw]

theorem State.hostRun_tooLong {s : State} {prog : List Byte} {n : Nat} (he : s.engState ≠ .running)
    (hflaw : configFlaw s.cfg = none) (hn : 2 ^ s.cfg.pcW - 1 < n) : s.hostRun prog n = .refused .paramIllegal := by
  rw [State.hostRun, if_neg he, hflaw]
  simp only [if_pos hn]

/-- FIXED_CLASS exists exactly when FIXED_LEN is the length of some class of the MODE. -/
theorem fixedClass_eq_none_iff {cfg : Config} :
    fixedClass cfg = none ↔ ∀ c, lenOf cfg.mode c ≠ some cfg.fixedLen := by
  simp only [fixedClass, List.find?_eq_none, beq_iff_eq]
  exact ⟨fun h c hc => h c (mem_classesOf.2 ⟨_, hc⟩) hc, fun h c _ => h c⟩

/-- Settles O42: the checks in the order in which RUN makes them. -/
theorem runRefusals : Obligations.RunRefusals := by
  unfold Obligations.RunRefusals
  intro s prog n
  refine ⟨fun hr => by rw [State.hostRun, if_pos hr], fun he => ⟨?_, ?_, ?_, ?_, ?_⟩⟩
  · intro hmode hext
    exact State.hostRun_flawed he (flaw := .paramIllegal) (by rw [configFlaw, if_pos ⟨hmode, hext⟩])
  · intro hparam hfixed hnone
    refine State.hostRun_flawed he (flaw := .fixedLenIllegal) ?_
    rw [configFlaw, if_neg hparam, if_pos ⟨hfixed, fixedClass_eq_none_iff.2 hnone⟩]
  · intro hparam hsome htable
    have hlegal : ¬ (s.cfg.varlen = false ∧ fixedClass s.cfg = none) := by
      rintro ⟨hfixed, hnone⟩
      obtain ⟨c, hc⟩ := hsome hfixed
      exact fixedClass_eq_none_iff.1 hnone c hc
    refine State.hostRun_flawed he (flaw := .tableIllFormed) ?_
    rw [configFlaw, if_neg hparam, if_neg hlegal, htable]
    rfl
  · exact fun hflaw hn => State.hostRun_tooLong he hflaw hn
  · exact fun hflaw hn hl => State.hostRun_overstated he hflaw hn hl

/-! ### Reset, codes and the host's view -/

/-- Settles O40: the five values stand in the power-on state. -/
theorem powerOnState : Obligations.PowerOnState := ⟨rfl, rfl, rfl, rfl, rfl⟩

/-- Settles O46: each code as its table gives it. -/
theorem numericCodes : Obligations.NumericCodes := by
  refine ⟨?_, ?_, ?_, ?_, fun code => rfl⟩ <;> decide

/-- Settles O47: ENG_STATE alone decides what each output shows. -/
theorem hostReadsStateResultAndRecord : Obligations.HostReadsStateResultAndRecord := by
  unfold Obligations.HostReadsStateResultAndRecord
  intro s
  unfold State.visibleEngState State.visibleErrKind State.visibleErrAddr State.visibleErrSnap State.visibleResult
    State.recordReadable State.callsMade
  cases s.engState <;> simp

end Sys2Proof.Machine
end

section
/-! PROOF. A step depends on nothing an earlier run left: states that agree on what counts step alike, and so do whole
runs (42_sequencer.md R175, R176, R189). -/

namespace Sys2Proof.Machine

/-! ### What agreeing states read alike -/

section
variable {s t : State} (h : SameRun s t)
include h

theorem SameRun.window_eq : s.window = t.window := by
  simp only [State.window, h.mem, h.pc, h.totalLen]

theorem SameRun.handlerReply_eq (hd : HandlerId) (r : InstrRecord) : s.handlerReply hd r = t.handlerReply hd r := by
  simp only [State.handlerReply, h.handlerReplies, h.handlerCalls]

theorem SameRun.hookReply_eq (hk : HookId) : s.hookReply hk = t.hookReply hk := by
  simp only [State.hookReply, h.hookReplies, h.hookCalls]

/-! ### Each operation keeps the agreement -/

theorem SameRun.latch (c : Cur) (r r' : InstrRecord) : SameRun (s.latch c r) (t.latch c r') := { h with }

theorem SameRun.clearStop : SameRun s.clearStop t.clearStop := { h with termReq := rfl }

theorem SameRun.countHandlerCall : SameRun s.countHandlerCall t.countHandlerCall :=
  { h with
    handlerReplies := congrArg List.tail h.handlerReplies
    handlerCalls := congrArg (· + 1) h.handlerCalls }

theorem SameRun.countHookCall : SameRun s.countHookCall t.countHookCall :=
  { h with
    hookReplies := congrArg List.tail h.hookReplies
    hookCalls := congrArg (· + 1) h.hookCalls }

/-- The target that a call's jump requests leave is compared while a jump is pending: it is the last request's, or the
one that was pending before the call. -/
theorem SameRun.applyRequests (r : Requests) : SameRun (s.applyRequests r) (t.applyRequests r) := by
  have htarget : (s.jmpValid || !r.jumps.isEmpty) = true →
      r.jumps.getLastD s.jmpTarget = r.jumps.getLastD t.jmpTarget := by
    cases r.jumps with
    | nil => simpa using h.jmpTarget
    | cons x xs => exact fun _ => rfl
  rw [State.applyRequests_eq, State.applyRequests_eq]
  exact { h with
    jmpValid := by simp only [h.jmpValid]
    jmpTarget := htarget
    termReq := by simp only [h.termReq]
    wdtHook := by simp only [h.wdtHook]
    mem := by simp only [h.mem] }

theorem SameRun.afterCall (c : Cur) (r : InstrRecord) (o : HandlerOutcome) :
    SameRun (s.afterCall c r o) (t.afterCall c r o) :=
  (h.latch c r r).countHandlerCall.applyRequests o.reqs

theorem SameRun.halt : SameRun s.halt t.halt :=
  { h with engState := rfl, result := fun _ => rfl, fault := by simp }

theorem SameRun.abort (kind : ErrKind) (snap : InstrRecord) :
    SameRun (s.abort kind s.pc snap) (t.abort kind t.pc snap) :=
  { h with engState := rfl, result := fun _ => rfl, err := by simp [h.pc], fault := by simp }

theorem SameRun.enterFault (reason : FaultReason) : SameRun (s.enterFault reason) (t.enterFault reason) :=
  { h with engState := rfl, result := by simp, fault := fun _ => ⟨rfl, h.pc⟩ }

theorem SameRun.wdtAbort : SameRun s.wdtAbort t.wdtAbort := by
  rw [State.wdtAbort_frame s, State.wdtAbort_frame t]
  exact { h with
    engState := rfl
    result := fun _ => rfl
    err := by simp only [State.wdtAbort_err, h.cfg, h.pc, h.err]
    fault := by simp }

theorem SameRun.takeJump (hj : s.jmpValid = true) : SameRun s.takeJump t.takeJump :=
  { h with
    pc := by simp [h.jmpTarget hj, h.cfg]
    jmpValid := rfl
    jmpTarget := by simp }

theorem SameRun.advance (hcur : s.cur = t.cur) : SameRun s.advance t.advance :=
  { h with pc := by simp [h.pc, hcur] }

theorem SameRun.resetPc : SameRun s.resetPc t.resetPc := { h with pc := rfl }

/-- The arbiter keeps the agreement once CUR and REC, which this cycle wrote, agree too: it takes the same branch. -/
theorem SameRun.arbitrate (resp : Resp) (hrec : s.record = t.record) (hcur : s.cur = t.cur) :
    SameRun (s.arbitrate resp) (t.arbitrate resp) := by
  have habort (kind : ErrKind) : SameRun (s.abort kind s.pc s.record) (t.abort kind t.pc t.record) :=
    hrec ▸ h.abort kind s.record
  have hin (hp : s.pc < s.totalLen) : t.pc < t.totalLen := by rwa [← h.pc, ← h.totalLen]
  rcases State.arbitrate_cases resp s with ⟨rfl, -⟩ | ⟨he, hp, ha⟩ | ⟨he, hp, hj, ht, ha⟩ | ⟨he, hp, hj, ht, ha⟩ |
    ⟨rfl, hp, hj, ha⟩ | ⟨rfl, hp, hj, ha⟩ | ⟨rfl, hp, hj, ha⟩
  · exact habort .handler
  · rw [ha, State.arbitrate_boundsAnomaly he (by rwa [← h.pc, ← h.totalLen])]
    exact habort .boundsAnomaly
  · rw [ha, State.arbitrate_invalidJump he (hin hp) (h.jmpValid ▸ hj) (by rwa [← h.jmpTarget hj, ← h.totalLen])]
    exact habort .invalidJump
  · rw [ha, State.arbitrate_validJump he (hin hp) (h.jmpValid ▸ hj) (by rwa [← h.jmpTarget hj, ← h.totalLen])]
    exact h.takeJump hj
  · rw [ha, State.arbitrate_ok (hin hp) (h.jmpValid ▸ hj)]
    exact h.advance hcur
  · rw [ha, State.arbitrate_endRun (hin hp) (h.jmpValid ▸ hj)]
    exact h.halt
  · rw [ha, State.arbitrate_reset (hin hp) (h.jmpValid ▸ hj)]
    exact h.resetPc

/-! ### The parts of a step, from the instruction outwards -/

theorem SameRun.dispatch (c : Cur) (r : InstrRecord) : SameOutcome (s.dispatch c r) (t.dispatch c r) := by
  simp only [State.dispatch, ← h.handlerReply_eq]
  cases s.handlerReply c.handler r with
  | returned o => exact (h.afterCall c r o).arbitrate o.resp (by simp) (by simp)
  | calledRun => exact rfl
  | neverReturns => exact rfl

theorem SameRun.exec (i : Instr) : SameOutcome (exec i s) (exec i t) := by
  cases hf : i.format with
  | none =>
    obtain ⟨bytes, rfl⟩ := undefinedOpcode_of_format_none hf
    exact h.enterFault .undefinedOpcode
  | some ob =>
    rw [exec_format s hf, exec_format t hf, ← h.cfg]
    cases i.cur s.cfg with
    | none => exact h.enterFault .undefinedOpcode
    | some c => exact h.dispatch c _

theorem SameRun.fetchAndExec : SameOutcome s.fetchAndExec t.fetchAndExec := by
  simp only [State.fetchAndExec, ← h.window_eq, ← h.cfg]
  cases s.window with
  | none => exact rfl
  | some bytes =>
    dsimp only
    cases decode s.cfg bytes with
    | ok ir => exact h.exec ir.1
    | error e =>
      cases e with
      | noByte => exact rfl
      | pastEnd c => exact (h.latch c s.record t.record).abort .length .zero
      | ambiguousTable => exact rfl
      | fixedLenIllegal => exact rfl

theorem SameRun.stopOrFetch : SameOutcome s.stopOrFetch t.stopOrFetch := by
  simp only [State.stopOrFetch, ← h.termReq]
  cases s.termReq with
  | true => exact h.clearStop.halt
  | false => exact h.fetchAndExec

theorem SameRun.watchdogThenRest : SameOutcome s.watchdogThenRest t.watchdogThenRest := by
  simp only [State.watchdogThenRest, ← h.wdtHook, ← h.hookReply_eq]
  cases s.wdtHook with
  | none => exact h.stopOrFetch
  | some hk =>
    dsimp only
    cases s.hookReply hk with
    | returned o =>
      have hafter := h.countHookCall.applyRequests o.reqs
      dsimp only
      cases o.ok with
      | true => exact hafter.stopOrFetch
      | false => exact hafter.wdtAbort
    | calledRun => exact rfl
    | neverReturns => exact rfl

theorem SameRun.cycle : SameOutcome s.cycle t.cycle := by
  simp only [State.cycle, ← h.pc, ← h.totalLen]
  split
  · exact h.watchdogThenRest
  · exact h.halt

end

/-! ### The host's requests -/

/-- Agreement on all that run start does not write: the build, the hook, the pending requests and the outside world. -/
structure SameStart (s t : State) : Prop where
  cfg : s.cfg = t.cfg
  wdtHook : s.wdtHook = t.wdtHook
  hostReqs : s.hostReqs = t.hostReqs
  handlerReplies : s.handlerReplies = t.handlerReplies
  hookReplies : s.hookReplies = t.hookReplies
  handlerCalls : s.handlerCalls = t.handlerCalls
  hookCalls : s.hookCalls = t.hookCalls

theorem SameRun.sameStart {s t : State} (h : SameRun s t) : SameStart s t := { h with }

/-- Run start writes or clears everything else that a run can depend on (42_sequencer.md R161, R189). -/
theorem SameStart.startRun {s t : State} (h : SameStart s t) (prog : List Byte) (n : Nat) :
    SameRun (s.startRun prog n) (t.startRun prog n) :=
  { h with
    engState := rfl
    pc := rfl
    totalLen := rfl
    jmpValid := rfl
    jmpTarget := by simp
    termReq := rfl
    result := by simp
    err := rfl
    fault := by simp
    mem := rfl }

/-- RUN outside a run goes the same way, refusals included. -/
theorem SameStart.hostRun {s t : State} (h : SameStart s t) (prog : List Byte) (n : Nat)
    (hs : s.engState ≠ .running) (ht : t.engState ≠ .running) : SameOutcome (s.hostRun prog n) (t.hostRun prog n) := by
  simp only [State.hostRun, if_neg hs, if_neg ht, ← h.cfg]
  cases configFlaw s.cfg with
  | some flaw => exact rfl
  | none =>
    dsimp only
    split
    · exact rfl
    · split
      · exact rfl
      · exact h.startRun prog n

theorem SameRun.serve {s t : State} (h : SameRun s t) (hne : s.engState ≠ .running) (r : HostRequest) :
    SameOutcome (s.serve r) (t.serve r) := by
  cases r with
  | run prog n => exact h.sameStart.hostRun prog n hne (h.engState ▸ hne)
  | lastError =>
    simp only [State.serve, State.hostLastError, ← h.engState]
    split
    · exact h.enterFault .unwrittenErrorRecord
    · exact { h with engState := rfl }
  | setWatchdog v => exact { h with wdtHook := rfl }
  | requestStop => exact { h with termReq := rfl }
  | requestJump x => exact { h with jmpValid := rfl, jmpTarget := fun _ => rfl }

theorem SameRun.idle {s t : State} (h : SameRun s t) (hne : s.engState ≠ .running) : SameOutcome s.idle t.idle := by
  simp only [State.idle, ← h.hostReqs]
  cases s.hostReqs with
  | nil => exact h
  | cons r reqs =>
    have hq : SameRun { s with hostReqs := reqs } { t with hostReqs := reqs } := { h with hostReqs := rfl }
    exact hq.serve hne r

/-! ### Steps and runs -/

/-- Settles O60: ENG_STATE agrees, so both run a cycle, both serve the host, or both are stuck in FAULTED. -/
theorem stepDependsOnNothingLeftOver : Obligations.StepDependsOnNothingLeftOver := by
  unfold Obligations.StepDependsOnNothingLeftOver
  intro s t h
  have hidle (hne : s.engState ≠ .running) := h.idle hne
  simp only [step, ← h.engState]
  cases he : s.engState with
  | running => exact h.cycle
  | faulted => exact rfl
  | ready => exact hidle (by simp [he])
  | halted => exact hidle (by simp [he])
  | aborted => exact hidle (by simp [he])

/-- Runs agree where their first steps agree and agreeing states run alike. -/
theorem SameOutcome.run_succ {s t : State} {k : Nat} (h : SameOutcome (step s) (step t))
    (hrun : ∀ {s' t'}, SameRun s' t' → SameOutcome (Sys2Proof.core.run k s') (Sys2Proof.core.run k t')) :
    SameOutcome (Sys2Proof.core.run (k + 1) s) (Sys2Proof.core.run (k + 1) t) := by
  cases hs : step s with
  | next s' =>
    cases ht : step t with
    | next t' =>
      rw [hs, ht] at h
      rw [run_next k hs, run_next k ht]
      exact hrun h
    | fault => rw [hs, ht] at h; exact h.elim
    | refused => rw [hs, ht] at h; exact h.elim
  | fault =>
    cases ht : step t with
    | fault =>
      rw [hs, ht] at h
      rw [run_fault k hs, run_fault k ht]
      exact h
    | next => rw [hs, ht] at h; exact h.elim
    | refused => rw [hs, ht] at h; exact h.elim
  | refused =>
    cases ht : step t with
    | refused =>
      rw [hs, ht] at h
      rw [run_refused k hs, run_refused k ht]
      exact h
    | next => rw [hs, ht] at h; exact h.elim
    | fault => rw [hs, ht] at h; exact h.elim

/-- Agreeing states run alike for any number of steps. -/
theorem SameRun.run {s t : State} (h : SameRun s t) (k : Nat) :
    SameOutcome (Sys2Proof.core.run k s) (Sys2Proof.core.run k t) := by
  induction k generalizing s t with
  | zero => exact h
  | succ k ih => exact SameOutcome.run_succ (stepDependsOnNothingLeftOver s t h) ih

/-- Settles O57: the step that serves RUN gives states that agree, and agreeing states run alike. -/
theorem cleanRestart : Obligations.CleanRestart := by
  unfold Obligations.CleanRestart
  intro s s' prog n reqs k hb hb' hcfg hhook hq hq' hhandler hhooks hcalls hhookCalls
  have hstart : SameStart { s with hostReqs := reqs } { s' with hostReqs := reqs } :=
    ⟨hcfg, hhook, rfl, hhandler, hhooks, hcalls, hhookCalls⟩
  refine SameOutcome.run_succ ?_ fun h => h.run k
  rw [step_of_request hb hq, step_of_request hb' hq']
  exact hstart.hostRun prog n (step_of_betweenRuns hb).2 (step_of_betweenRuns hb').2

/-- Settles O44: the two steps that serve the stop and the jump write registers that run start clears or that count
only after a jump, so the clean restart applies to the states with and without them. -/
theorem requestsOutsideARunAreDropped : Obligations.RequestsOutsideARunAreDropped := by
  unfold Obligations.RequestsOutsideARunAreDropped
  intro s prog n target reqs k hb
  obtain ⟨-, hstop, -, -⟩ := hostControlRequests
    { s with hostReqs := .requestStop :: .requestJump target :: .run prog n :: reqs }
    (.requestJump target :: .run prog n :: reqs) hb
  obtain ⟨-, -, hjump, -⟩ := hostControlRequests
    { s with termReq := true, hostReqs := .requestJump target :: .run prog n :: reqs } (.run prog n :: reqs) hb
  rw [run_next (k + 2) (hstop rfl), run_next (k + 1) (hjump target rfl)]
  exact cleanRestart _ _ prog n reqs k hb hb rfl rfl rfl rfl rfl rfl rfl rfl

end Sys2Proof.Machine
end

section
/-! PROOF. Folding, length resolution and the table check (30_encoding.md R74, 40_dispatch.md R102 to R109). -/

namespace Sys2Proof.Machine

/-! ### Folding and lengths -/

/-- Settles O4: each bit of the index is read off the fold; the opcode byte has none above bit 7. -/
theorem foldPlacesTypeBits : Obligations.FoldPlacesTypeBits := by
  unfold Obligations.FoldPlacesTypeBits
  intro e c op h1 h2 h3
  have habove {j : Nat} (hj : 8 ≤ j) : op.getLsbD j = false := BitVec.getLsbD_of_ge op j hj
  refine ⟨foldIndex_setWidth e c op h1 h2 h3, ?_, ?_, ?_⟩ <;> rw [foldIndex_getLsbD, habove (by decide)] <;> simp

/-- Settles O10: the entries are those of LEN, and the bound is `lenOf_bounds`. -/
theorem instructionLengths : Obligations.InstructionLengths :=
  ⟨fun m => by cases m <;> exact ⟨rfl, rfl⟩, rfl, rfl, rfl, rfl, rfl, rfl, fun _ _ _ hn => (lenOf_bounds hn).2⟩

/-- No two classes of a MODE have one length (30_encoding.md R74). -/
theorem lenOf_inj {m : Mode} {c c' : LenClass} : lenOf m c = lenOf m c' → c = c' := by
  cases m <;> cases c <;> cases c' <;> simp [lenOf]

/-- FIXED_CLASS is the class whose length FIXED_LEN is. -/
theorem fixedClass_of_lenOf {cfg : Config} {c : LenClass} (h : lenOf cfg.mode c = some cfg.fixedLen) :
    fixedClass cfg = some c := by
  cases hf : fixedClass cfg with
  | none => exact absurd h (fixedClass_eq_none_iff.1 hf c)
  | some c' => rw [lenOf_inj (h.trans (fixedClass_some hf).symm)]

/-- Settles O11: RESOLVE_FIXED looks at the entry's handler only. -/
theorem fixedLengthResolution : Obligations.FixedLengthResolution := by
  unfold Obligations.FixedLengthResolution
  intro cfg op window c hv hlen
  have hfix := fixedClass_of_lenOf hlen
  refine ⟨fun h tag hentry => resolve_of_fixedEntry hv hfix ?_, fun hentry => ?_⟩
  · rw [fixedEntry, hentry]
    rfl
  · simp [resolve, hv, hfix, fixedEntry, hentry]

/-! ### TABLE_WF -/

/-- Settles O5: a window's gated type bits are one of the vectors that TABLE_WF checks. -/
theorem tableWfGivesOneClass : Obligations.TableWfGivesOneClass := by
  unfold Obligations.TableWfGivesOneClass
  intro cfg op window hwf
  exact atMostOneClass_iff.1 (tableWf_one hwf) op _ _ _

/-- With EXT_BITS = 0 nothing is folded. -/
theorem foldIndex_of_extBits_zero {e : Fin 4} (he : e = 0) (c : LenClass) (op : Byte) (h1 h2 h3 : Bool) :
    foldIndex e c op h1 h2 h3 = op.setWidth 11 := by
  subst he
  exact foldIndex_of_no_bits op rfl rfl rfl

/-- Where every element that a partial function keeps is one and the same, it keeps at most one of a list without
duplicates. -/
theorem length_filterMap_le_one {α β : Type} {f : α → Option β} {l : List α} {a : α} [DecidableEq α]
    (hl : l.Nodup) (hf : ∀ x, (f x).isSome = true → x = a) : (l.filterMap f).length ≤ 1 := by
  rw [List.length_filterMap_eq_countP]
  calc l.countP (fun x => (f x).isSome) ≤ l.countP (· == a) :=
        List.countP_mono_left fun x _ hx => by simpa using hf x hx
    _ ≤ 1 := List.nodup_iff_count_le_one.1 hl a

theorem classesOf_nodup (m : Mode) : (classesOf m).Nodup := by
  cases m <;> decide

/-- With EXT_BITS = 0 every class looks at the entry at the opcode byte, so only that entry's class is consistent. -/
theorem atMostOneClass_of_extBits_zero {cfg : Config} (he : cfg.extBits = 0) : atMostOneClass cfg = true := by
  rw [atMostOneClass_iff]
  intro op h1 h2 h3
  have hentry {c : LenClass} (hc : (entryFor cfg op h1 h2 h3 c).isSome = true) :
      ∃ h, tableLookup cfg.table (op.setWidth 11) = some (h, c) := by
    obtain ⟨cur, hcur⟩ := Option.isSome_iff_exists.1 hc
    obtain ⟨-, hidx, -, htable⟩ := entryFor_eq_some.1 hcur
    rw [foldIndex_of_extBits_zero he] at hidx
    exact ⟨_, hidx ▸ htable⟩
  cases ht : tableLookup cfg.table (op.setWidth 11) with
  | none =>
    refine length_filterMap_le_one (a := .noOperand) (classesOf_nodup _) fun c hc => ?_
    obtain ⟨h, hh⟩ := hentry hc
    cases ht.symm.trans hh
  | some hc =>
    refine length_filterMap_le_one (a := hc.2) (classesOf_nodup _) fun c hc' => ?_
    obtain ⟨h, hh⟩ := hentry hc'
    cases ht.symm.trans hh
    rfl

/-- With EXT_BITS = 0 and an absent entry at the opcode byte no class is consistent. -/
theorem candidates_of_absent {cfg : Config} {op : Byte} (he : cfg.extBits = 0)
    (ht : tableLookup cfg.table (op.setWidth 11) = none) (window : List Byte) : candidates cfg op window = [] := by
  refine List.filterMap_eq_nil_iff.2 fun c _ => Option.eq_none_iff_forall_ne_some.2 fun cur hcur => ?_
  obtain ⟨-, hidx, -, htable⟩ := entryFor_eq_some.1 hcur
  rw [hidx, foldIndex_of_extBits_zero he, ht] at htable
  cases htable

/-- Settles O6: nothing is folded, so the entry at the opcode byte decides alone. -/
theorem extBitsZeroResolvesByOpcodeByte : Obligations.ExtBitsZeroResolvesByOpcodeByte := by
  unfold Obligations.ExtBitsZeroResolvesByOpcodeByte
  intro cfg he
  refine ⟨atMostOneClass_of_extBits_zero he, fun op window hv => ⟨fun ht => ?_, fun h c n ht hn => ?_⟩⟩
  · rw [resolve, if_pos hv, candidates_of_absent he ht]
  · exact resolve_of_entryFor hv (atMostOneClass_of_extBits_zero he)
      (entryFor_eq_some.2 ⟨rfl, (foldIndex_of_extBits_zero he _ _ _ _ _).symm, hn, ht⟩)

/-! ### The folding property -/

/-- With TYPE1's bit folded and set, and no other folded bit set, the index is the opcode byte with bit 8. -/
theorem foldIndex_of_first_bit {e : Fin 4} {c : LenClass} {h2 h3 : Bool} (op : Byte) (he : 1 ≤ e.val)
    (hc : c.hasType 1 = true) (a2 : (decide (2 ≤ e.val) && c.hasType 2 && h2) = false)
    (a3 : (decide (3 ≤ e.val) && c.hasType 3 && h3) = false) :
    foldIndex e c op true h2 h3 = op.setWidth 11 ||| 0x100 := by
  apply BitVec.eq_of_getLsbD_eq
  intro j hj
  rw [foldIndex_getLsbD, a2, a3, show (0x100 : OpIndex) = BitVec.twoPow 11 8 by decide]
  simp [hj, he, hc]

/-- A type bit that is clear wherever it would be folded adds nothing to the index. -/
theorem unfolded_of_clear {e : Fin 4} {c : LenClass} {k : Nat} {high : Bool}
    (h : k ≤ e.val → c.hasType k = true → high = false) : (decide (k ≤ e.val) && c.hasType k && high) = false := by
  by_cases hk : k ≤ e.val
  · cases hc : c.hasType k with
    | false => simp
    | true => simp [h hk hc]
  · simp [hk]

/-- Settles O7: TYPE1's bit is the one folded bit, and the class at the index it makes is the resolved one. -/
theorem highTypeBitSelectsTheOtherEntry : Obligations.HighTypeBitSelectsTheOtherEntry := by
  unfold Obligations.HighTypeBitSelectsTheOtherEntry
  intro cfg op window h h' c c' n n' hv hwf he _ hc' hn hn' ht ht'
  refine ⟨fun hlow hclear => ?_, fun hhigh hclear => ?_⟩
  · refine resolve_of_entryFor hv (tableWf_one hwf) (entryFor_eq_some.2 ⟨rfl, Eq.symm ?_, hn, ht⟩)
    exact foldIndex_of_no_bits op (by simp [hlow]) (unfolded_of_clear (hclear 2 (.inl rfl)))
      (unfolded_of_clear (hclear 3 (.inr rfl)))
  · refine resolve_of_entryFor hv (tableWf_one hwf) (entryFor_eq_some.2 ⟨rfl, Eq.symm ?_, hn', ht'⟩)
    rw [hhigh]
    exact foldIndex_of_first_bit op he hc' (unfolded_of_clear (hclear 2 (.inl rfl)))
      (unfolded_of_clear (hclear 3 (.inr rfl)))

/-! ### The two phases -/

/-- Settles O8: a type byte lies inside its class's length, so the length check fails where the byte is missing. -/
theorem gatedTypeBitNeverExecutes : Obligations.GatedTypeBitNeverExecutes := by
  unfold Obligations.GatedTypeBitNeverExecutes
  intro cfg op tail c k off hres hk hoff hend
  have hlt : tail.length + 1 < c.len :=
    Nat.lt_of_le_of_lt hend (typeOffset_lt_len hk hoff (resolve_resolved hres).1)
  simp only [decode, hres, if_pos hlt]

/-- The type fields of a record hold the type bytes of the layout. -/
theorem fillRecord_typeHigh (idx : OpIndex) (b : Layout) :
    (b.cls.hasType 1 = true → (fillRecord idx b).dstType.msb = b.typeHigh 1) ∧
    (b.cls.hasType 2 = true → (fillRecord idx b).srcType.msb = b.typeHigh 2) ∧
    (b.cls.hasType 3 = true → (fillRecord idx b).extType.msb = b.typeHigh 3) := by
  cases b <;> simp [Layout.cls, LenClass.hasType, fillRecord, Layout.typeHigh]

/-- DISPATCH_IDX folds the index again from the record (40_dispatch.md R107). -/
theorem dispatchIdx_fillRecord (cfg : Config) (op : Byte) (b : Layout) (h1 h2 h3 : Bool)
    (a1 : b.cls.hasType 1 = true → b.typeHigh 1 = h1) (a2 : b.cls.hasType 2 = true → b.typeHigh 2 = h2)
    (a3 : b.cls.hasType 3 = true → b.typeHigh 3 = h3) :
    dispatchIdx cfg (fillRecord (foldIndex cfg.extBits b.cls op h1 h2 h3) b) b.cls =
      foldIndex cfg.extBits b.cls op h1 h2 h3 := by
  obtain ⟨hdst, hsrc, hext⟩ := fillRecord_typeHigh (foldIndex cfg.extBits b.cls op h1 h2 h3) b
  rw [dispatchIdx, fillRecord_opcodeIndex, foldIndex_setWidth]
  exact foldIndex_congr cfg.extBits op (fun h => (hdst h).trans (a1 h)) (fun h => (hsrc h).trans (a2 h))
    (fun h => (hext h).trans (a3 h))

/-- Settles O9: both phases fold the layout's type bits. -/
theorem lengthAndDispatchPhasesAgree : Obligations.LengthAndDispatchPhasesAgree := by
  unfold Obligations.LengthAndDispatchPhasesAgree
  intro cfg op tail rest c i hres hdec
  have hle : c.len ≤ tail.length + 1 := by
    by_contra hlt
    simp [decode, hres, Nat.not_le.1 hlt] at hdec
  obtain ⟨b, rest', -, hdec', hcur, hcls, hfits, hbytes⟩ := decode_resolved hres hle
  obtain ⟨rfl, rfl⟩ : instrOfLayout cfg op b = i ∧ rest' = rest := by simpa using hdec'.symm.trans hdec
  obtain ⟨-, hidx, ⟨tag, htable⟩, -⟩ := resolve_resolved hres
  have hbit (k : Nat) (hk : b.cls.hasType k = true) : b.typeHigh k = typeBit cfg.mode (op :: tail) k := by
    rw [← hbytes, typeBit_layout op _ k hfits hk]
  refine ⟨hcur, b, instrOfLayout_format op b, ?_, by rw [htable]; rfl⟩
  rw [hidx, ← hcls]
  exact dispatchIdx_fillRecord cfg op b _ _ _ (hbit 1) (hbit 2) (hbit 3)

end Sys2Proof.Machine
end

section
/-! PROOF. The formats C1, X1, C3 and FIXED_LENGTH, and what every format leaves in REC (41_decoder.md R134, R136, R140,
40_dispatch.md R105). -/

namespace Sys2Proof.Machine

/-! ### NARROW and COMPACT DUAL -/

theorem parseLayout_narrow (m : Mode) (raw : Byte) (tail : List Byte) :
    parseLayout m .narrow (raw :: tail) = some (.narrow raw, tail) := by
  cases m <;> rfl

theorem instrOfLayout_narrow {cfg : Config} (op raw : Byte) (hv : cfg.varlen = true) :
    instrOfLayout cfg op (.narrow raw) =
      if cfg.mode = .compact then .classNarrowC1 op raw else .classNarrowX1 op raw := by
  cases hm : cfg.mode <;> simp [instrOfLayout, hv, hm]

/-- Settles O13, for both modes at once: NARROW parses from its raw byte. -/
theorem narrowFormatsParseAndComplete : Obligations.NarrowFormatsParseAndComplete := by
  unfold Obligations.NarrowFormatsParseAndComplete
  intro s op raw rest c o hv hres hcls hreply
  have hparse : parseLayout s.cfg.mode c.cls (raw :: rest) = some (.narrow raw, rest) := by
    rw [hcls, parseLayout_narrow]
  obtain ⟨hlen, t, h⟩ := parsesAndCompletes hres hparse (instrOfLayout_narrow op raw hv) hreply
  exact ⟨hlen, _, t, rfl, h⟩

/-- Settles O15: the padding byte is parsed into the layout and `fillRecord` leaves it out. -/
theorem dualC3ParsesAndCompletes : Obligations.DualC3ParsesAndCompletes := by
  unfold Obligations.DualC3ParsesAndCompletes
  simp only [← wideOfHalf_le16]
  intro s op t1 a0 a1 t2 b0 b1 pad rest c o hv hm hres hcls hreply
  have hparse : parseLayout s.cfg.mode c.cls (t1 :: a0 :: a1 :: t2 :: b0 :: b1 :: pad :: rest) =
      some (.dual16 t1 (le16 a0 a1) t2 (le16 b0 b1) pad, rest) := by
    rw [hm, hcls]; rfl
  have hi : instrOfLayout s.cfg op (.dual16 t1 (le16 a0 a1) t2 (le16 b0 b1) pad) =
      .classDualC3 op t1 (le16 a0 a1) t2 (le16 b0 b1) pad := by
    simp [instrOfLayout, hv, hm]
  obtain ⟨hlen, h⟩ := parsesAndCompletes hres hparse hi hreply
  exact ⟨hlen, _, _, h⟩

/-! ### Fixed-length builds -/

/-- Settles O19: FIXED_CLASS has length FIXED_LEN, and its layout is parsed like any other. -/
theorem fixedLengthParsesAndCompletes : Obligations.FixedLengthParsesAndCompletes := by
  unfold Obligations.FixedLengthParsesAndCompletes
  intro s op tail c hv hres hle
  obtain ⟨hlen, -, -, -, hfixed⟩ := resolve_resolved hres
  have hfixedLen : c.len = s.cfg.fixedLen := by
    simpa using hlen.symm.trans (fixedClass_some (hfixed hv).1)
  obtain ⟨b, rest, hparse, hdec, -, hcls, -, hbytes⟩ := decode_resolved hres hle
  have hi : instrOfLayout s.cfg op b = .fixedLength op b := by simp [instrOfLayout, hv]
  have hcount : tail.length + 1 = c.len + rest.length := by
    rw [len_of_parseLayout hres hparse, ← hbytes, List.length_append]
    omega
  refine ⟨hfixedLen, hlen, b, rest, hcls, hi ▸ hdec, hcount, fun o hreply => ?_⟩
  obtain ⟨-, t, -, h⟩ := parsesAndCompletes hres hparse hi hreply
  exact ⟨t, h⟩

/-! ### REC after any format -/

/-- The fields of REC that a layout's class lacks are zero (41_decoder.md R140). -/
theorem fillRecord_outside_class (idx : OpIndex) (b : Layout) :
    (b.cls = .noOperand → (fillRecord idx b).dstType = 0) ∧
    (b.cls = .noOperand ∨ b.cls = .narrow → (fillRecord idx b).dstValue = 0) ∧
    (b.cls = .noOperand ∨ b.cls = .narrow ∨ b.cls = .single →
      (fillRecord idx b).srcType = 0 ∧ (fillRecord idx b).srcValue = 0) ∧
    (b.cls ≠ .dualExt → (fillRecord idx b).extType = 0 ∧ (fillRecord idx b).extValue = 0) := by
  cases b <;> simp [Layout.cls, fillRecord, InstrRecord.zero]

/-- Settles O21: the record is the layout's, and no COMPACT layout is DUAL_EXT. -/
theorem recordFieldsOutsideTheClassAreZero : Obligations.RecordFieldsOutsideTheClassAreZero := by
  unfold Obligations.RecordFieldsOutsideTheClassAreZero
  intro i s c r o hd
  obtain ⟨b, -, hcls, rfl⟩ := hd.layout
  obtain ⟨hdstType, hdstValue, hsrc, hext⟩ := fillRecord_outside_class c.idx b
  rw [← hcls] at hdstType hdstValue hsrc hext
  have hcompact : s.cfg.mode = .compact → c.cls ≠ .dualExt := by
    intro hm he
    have hlen := (cur_bounds hd.cur).1
    rw [hm, he] at hlen
    cases hlen
  exact ⟨_, exec_of_dispatches hd, by simp, by simp, hdstType, hdstValue, hsrc, hext, fun hm => hext (hcompact hm)⟩

end Sys2Proof.Machine
end
